-- ==== Sys2Proof/Word.lean ====
section
/-! DEFINITION. The plain types of CAPP-CORE: words, bytes, bus offsets, pixels, the names of buffers, tables and
registers, and the host's bus accesses (spec/00_scope.md R10, R12, R15; spec/10_state.md R21; spec/20_memory.md R60, R61). -/

namespace Sys2Proof

/-- A 32-bit word: registers, keystream words, permutation entries (R10). -/
abbrev Word := BitVec 32

/-- A byte: one lane of a pixel (R10, R15). -/
abbrev Byte := BitVec 8

/-- A 12-bit byte offset into the 4 KiB register aperture (R10, R60). -/
abbrev Offset := BitVec 12

/-- A pixel is three byte lanes, 0 to 2; the document calls them r, g and b (R15). -/
structure Pixel where
  c0 : Byte
  c1 : Byte
  c2 : Byte
  deriving DecidableEq, Repr, Inhabited

/-- The four pixel buffers BUF[0] to BUF[3], named by the 2-bit fields SRC and DST (R45, R91). -/
inductive BufId where
  | b0 | b1 | b2 | b3
  deriving DecidableEq, Repr

/-- The lookup table that the T field of SCAT and GATH selects: 0 is P, 1 is Q (R92). -/
inductive Table where
  | P | Q
  deriving DecidableEq, Repr

/-- The fourteen mapped registers of the aperture (R21). -/
inductive Reg where
  | ctrl | status | errcode | cmd | seed | start | width | height | npix | cap | xs | wsel | widx | wdata
  deriving DecidableEq, Repr

/-- The size of a bus access: 8, 16 or 32 bits (R61). -/
inductive AccessSize where
  | byte | half | word
  deriving DecidableEq, Repr

/-- One bus access of the host: `HostRead(off)` or `HostWrite(off, v)`, with the size R61 speaks of. -/
inductive HostOp where
  | read (size : AccessSize) (off : Offset)
  | write (size : AccessSize) (off : Offset) (v : Word)
  deriving DecidableEq, Repr

/-- The abort codes ERRCODE.CODE can hold; 7 to 15 are never produced (R201). -/
inductive ErrCode where
  /-- 0 NONE: the last command completed without abort, or none since reset. -/
  | clear
  /-- 1 ILLEGAL: the command word decodes to no command. -/
  | illegal
  /-- 2 SIZE: N > N_MAX. -/
  | size
  /-- 3 ALIAS: SRC = DST. -/
  | aliasing
  /-- 4 NO_KS: KS_VALID = 0. -/
  | noKs
  /-- 5 NO_TABLE: the table the command reads is not valid. -/
  | noTable
  /-- 6 NOT_PERM: P[0..N) is no bijection. -/
  | notPerm
  deriving DecidableEq, Repr

end Sys2Proof
end

