-- ==== Sys2Proof/Syntax.lean ====
section
/-! DEFINITION. The commands of CAPP-CORE, one constructor per row of spec/opcode_table.json (spec/30_encoding.md R95). -/

namespace Sys2Proof

/-- A legal command with its operand fields (R90 to R95). SRC and DST name pixel buffers, `t` the lookup table. -/
inductive Instr where
  /-- NOP (R118) -/
  | nop
  /-- GEN: generate the keystream (R132) -/
  | gen
  /-- PBUILD: build the permutation (R143) -/
  | pbuild
  /-- PINV: invert the permutation (R152) -/
  | pinv
  /-- PCHK: check a host-loaded permutation (R154) -/
  | pchk
  /-- SCAT: scatter a buffer through a table (R162) -/
  | scat (src dst : BufId) (t : Table)
  /-- GATH: gather a buffer through a table (R165) -/
  | gath (src dst : BufId) (t : Table)
  /-- CFWD: chain-encrypt a buffer (R172) -/
  | cfwd (src dst : BufId)
  /-- CREV: chain-decrypt a buffer (R177) -/
  | crev (src dst : BufId)
  /-- ENC: encrypt a linearized image (R190) -/
  | enc (src dst : BufId)
  /-- DEC: decrypt a linearized ciphertext (R192) -/
  | dec (src dst : BufId)
  deriving DecidableEq, Repr

end Sys2Proof
end

