-- ==== Sys2Proof/WellFormed.lean ====
section
/-! DEFINITION. Well-formedness of commands (spec/30_encoding.md R91, R92) and of bus accesses (spec/20_memory.md R61). -/

namespace Sys2Proof

/-- The well-formed commands. Every value of SRC and DST names an existing buffer and both values of T name a table
(R91, R92), and the operand types have exactly those values, so nothing is left to refuse; SRC = DST is a check of the
execution, not of the form (R91). -/
def Instr.wf : Instr → Bool
  | .nop => true
  | .gen => true
  | .pbuild => true
  | .pinv => true
  | .pchk => true
  | .scat _ _ _ => true
  | .gath _ _ _ => true
  | .cfwd _ _ => true
  | .crev _ _ => true
  | .enc _ _ => true
  | .dec _ _ => true

/-- The size of the access a host operation makes. -/
def HostOp.size : HostOp → AccessSize
  | .read size _ => size
  | .write size _ _ => size

/-- The byte offset of the access a host operation makes. -/
def HostOp.off : HostOp → Offset
  | .read _ off => off
  | .write _ off _ => off

/-- Only a naturally aligned 32-bit access is admitted (R61). -/
def HostOp.wf (op : HostOp) : Bool :=
  op.size == .word && op.off.toNat % 4 == 0

end Sys2Proof
end

