-- ==== Sys2Proof/Decode.lean ====
section
/-! DEFINITION. Decoding and encoding of command words (spec/30_encoding.md R90 to R97, R100; spec/opcode_table.json). -/

namespace Sys2Proof

/-- Why a word is no command. Either reason makes the word ILLEGAL (R97). -/
inductive DecodeReject where
  /-- OP is one of the 245 unassigned values (R97). -/
  | unassignedOp
  /-- A field the command does not use, or RSV, is not zero (R93, R94). -/
  | nonzeroUnused
  deriving DecidableEq, Repr

/-- OP, bits 7:0 (R90). -/
def opField (w : Word) : BitVec 8 := w.extractLsb' 0 8
/-- SRC, bits 9:8 (R91). -/
def srcField (w : Word) : BitVec 2 := w.extractLsb' 8 2
/-- DST, bits 11:10 (R91). -/
def dstField (w : Word) : BitVec 2 := w.extractLsb' 10 2
/-- T, bit 12 (R92). -/
def tField (w : Word) : BitVec 1 := w.extractLsb' 12 1

/-- The buffer a 2-bit field names (R91). -/
def bufOfField (f : BitVec 2) : BufId :=
  if f = 0#2 then .b0 else if f = 1#2 then .b1 else if f = 2#2 then .b2 else .b3

/-- The 2-bit field that names a buffer (R91). -/
def fieldOfBuf : BufId → BitVec 2
  | .b0 => 0#2
  | .b1 => 1#2
  | .b2 => 2#2
  | .b3 => 3#2

/-- The table the T field selects (R92). -/
def tableOfField (f : BitVec 1) : Table := if f = 0#1 then .P else .Q

/-- The T field that selects a table (R92). -/
def fieldOfTable : Table → BitVec 1
  | .P => 0#1
  | .Q => 1#1

/-- A command is read from the word only where all bits from `used` upwards are zero (R93, R94). -/
def readFields (w : Word) (used : Nat) (i : Instr) : Except DecodeReject Instr :=
  if w >>> used = 0#32 then .ok i else .error .nonzeroUnused

/-- `decode` of R96: a total function from 32-bit words; the error cases are ILLEGAL. -/
def decode (w : Word) : Except DecodeReject Instr :=
  let src := bufOfField (srcField w)
  let dst := bufOfField (dstField w)
  let t := tableOfField (tField w)
  match opField w with
  | 0x00#8 => readFields w 8 .nop
  | 0x01#8 => readFields w 8 .gen
  | 0x02#8 => readFields w 8 .pbuild
  | 0x03#8 => readFields w 8 .pinv
  | 0x04#8 => readFields w 8 .pchk
  | 0x10#8 => readFields w 13 (.scat src dst t)
  | 0x11#8 => readFields w 13 (.gath src dst t)
  | 0x20#8 => readFields w 12 (.cfwd src dst)
  | 0x21#8 => readFields w 12 (.crev src dst)
  | 0x30#8 => readFields w 12 (.enc src dst)
  | 0x31#8 => readFields w 12 (.dec src dst)
  | _ => .error .unassignedOp

/-- The opcode of a command (R95). -/
def opcodeOf : Instr → BitVec 8
  | .nop => 0x00#8
  | .gen => 0x01#8
  | .pbuild => 0x02#8
  | .pinv => 0x03#8
  | .pchk => 0x04#8
  | .scat _ _ _ => 0x10#8
  | .gath _ _ _ => 0x11#8
  | .cfwd _ _ => 0x20#8
  | .crev _ _ => 0x21#8
  | .enc _ _ => 0x30#8
  | .dec _ _ => 0x31#8

/-- A word of format C: RSV, T, DST, SRC, OP from the top (R90). -/
def formatC (op : BitVec 8) (src dst : BitVec 2) (t : BitVec 1) : Word :=
  0#19 ++ t ++ dst ++ src ++ op

/-- The word that encodes a command (R100). -/
def encode (i : Instr) : Word :=
  match i with
  | .nop => formatC (opcodeOf i) 0#2 0#2 0#1
  | .gen => formatC (opcodeOf i) 0#2 0#2 0#1
  | .pbuild => formatC (opcodeOf i) 0#2 0#2 0#1
  | .pinv => formatC (opcodeOf i) 0#2 0#2 0#1
  | .pchk => formatC (opcodeOf i) 0#2 0#2 0#1
  | .scat src dst t => formatC (opcodeOf i) (fieldOfBuf src) (fieldOfBuf dst) (fieldOfTable t)
  | .gath src dst t => formatC (opcodeOf i) (fieldOfBuf src) (fieldOfBuf dst) (fieldOfTable t)
  | .cfwd src dst => formatC (opcodeOf i) (fieldOfBuf src) (fieldOfBuf dst) 0#1
  | .crev src dst => formatC (opcodeOf i) (fieldOfBuf src) (fieldOfBuf dst) 0#1
  | .enc src dst => formatC (opcodeOf i) (fieldOfBuf src) (fieldOfBuf dst) 0#1
  | .dec src dst => formatC (opcodeOf i) (fieldOfBuf src) (fieldOfBuf dst) 0#1

/-- A row of spec/opcode_table.json: its mnemonic, mask and match. -/
structure OpcodeRow where
  mnemonic : String
  mask : Word
  value : Word
  deriving DecidableEq, Repr

/-- The eleven rows of spec/opcode_table.json, in its order. -/
def opcodeTable : List OpcodeRow :=
  [ ⟨"NOP", 0xFFFFFFFF#32, 0x00000000#32⟩, ⟨"GEN", 0xFFFFFFFF#32, 0x00000001#32⟩,
    ⟨"PBUILD", 0xFFFFFFFF#32, 0x00000002#32⟩, ⟨"PINV", 0xFFFFFFFF#32, 0x00000003#32⟩,
    ⟨"PCHK", 0xFFFFFFFF#32, 0x00000004#32⟩, ⟨"SCAT", 0xFFFFE0FF#32, 0x00000010#32⟩,
    ⟨"GATH", 0xFFFFE0FF#32, 0x00000011#32⟩, ⟨"CFWD", 0xFFFFF0FF#32, 0x00000020#32⟩,
    ⟨"CREV", 0xFFFFF0FF#32, 0x00000021#32⟩, ⟨"ENC", 0xFFFFF0FF#32, 0x00000030#32⟩,
    ⟨"DEC", 0xFFFFF0FF#32, 0x00000031#32⟩ ]

/-- `(cmd & mask) == match` of R96. -/
def rowMatches (w : Word) (row : OpcodeRow) : Bool := w &&& row.mask == row.value

/-- The rows of the opcode table that a word matches. -/
def matchingRows (w : Word) : List OpcodeRow := opcodeTable.filter (rowMatches w)

/-- The mnemonic of a command's row in spec/opcode_table.json. -/
def mnemonicOf : Instr → String
  | .nop => "NOP"
  | .gen => "GEN"
  | .pbuild => "PBUILD"
  | .pinv => "PINV"
  | .pchk => "PCHK"
  | .scat _ _ _ => "SCAT"
  | .gath _ _ _ => "GATH"
  | .cfwd _ _ => "CFWD"
  | .crev _ _ => "CREV"
  | .enc _ _ => "ENC"
  | .dec _ _ => "DEC"

/-- The command word whose low `nbits` bits are those of `w`, every bit above them zero: a command is one 32-bit word,
bit 0 its least significant (R12, R90). -/
def tableWord (nbits w : Nat) : Word := BitVec.ofNat 32 (w % 2 ^ nbits)

/-- The command the decoder reads from a word numbered as spec/opcode_table.json numbers it; none where it refuses. -/
def decodeTableWord (nbits w : Nat) : Option Instr :=
  match decode (tableWord nbits w) with
  | .ok i => some i
  | .error _ => none

end Sys2Proof
end

