-- ==== Sys2Proof/Config.lean ====
section
/-! DEFINITION. What an implementation fixes (N_MAX, BASE) and the free values of CAPP-CORE: the contents of the
internal memories after reset (spec/00_scope.md R9, R11; spec/10_state.md R51; spec/93_implementation_defined.md U1 to U4). -/

namespace Sys2Proof.Config

/-- N_MAX less one; a constant without a body, so no proof can see its value. -/
opaque capacityLess1 : Fin 2147483648

/-- `N_MAX`, the pixel capacity of the block, with `1 <= N_MAX <= 2^31` (R9). -/
def nMax : Nat := capacityLess1.val + 1

/-- The number of the 4 KiB page the platform places the aperture at; no source gives it (R11). -/
opaque basePage : Nat

/-- `BASE`, the host physical address of register offset 0; it is 4 KiB aligned (R11). -/
def base : Nat := 4096 * basePage

/-- FREE VALUE. What KS[i] holds after the reset numbered `epoch` until something is stored there (R51, U1). -/
opaque drawKs : (epoch i : Nat) → Word

/-- FREE VALUE. What P[i] holds after the reset numbered `epoch` until something is stored there (R51, U1). -/
opaque drawP : (epoch i : Nat) → Word

/-- FREE VALUE. What Q[i] holds after the reset numbered `epoch` until something is stored there (R51, U1). -/
opaque drawQ : (epoch i : Nat) → Word

/-- FREE VALUE. What BUF[b][i] holds after the reset numbered `epoch` until something is stored there (R51, U1, U3). -/
opaque drawBuf : (epoch : Nat) → (b : BufId) → (i : Nat) → Pixel

end Sys2Proof.Config
end

