-- ==== Sys2Proof/Machine/State.lean ====
section
/-! DEFINITION. The state of CAPP-CORE as plain data, its reset value, and the reasons a step can stop
(spec/10_state.md R20 to R51, spec/20_memory.md R60). -/

namespace Sys2Proof.Machine

/-- An internal memory: the stored elements by index, indices strictly rising; an element that nothing has stored
into since reset is not listed, and holds the draw taken at that reset (R42 to R45, R51). -/
abbrev Memory (α : Type) := List (Nat × α)

/-- The four pixel buffers (R45). -/
structure Buffers where
  b0 : Memory Pixel
  b1 : Memory Pixel
  b2 : Memory Pixel
  b3 : Memory Pixel
  deriving DecidableEq, Repr

/-- What moves next (R20, R77, R112, R230): the host makes a bus access, the block takes its completion step, or RST
is pulsed. -/
inductive Turn where
  | host (op : HostOp)
  | block
  | reset
  deriving DecidableEq, Repr

/-- The machine. Registers stand under the rule of spec/10_state.md that names them; NPIX and WDATA are computed, not
stored (R32, R40). The last three fields are the model's own (notes/assumptions/2.md, 3.md, 4.md). -/
structure State where
  /-- CTRL.IE (R22) -/
  ie : Bool
  /-- STATUS.BUSY (R23) -/
  busy : Bool
  /-- STATUS.DONE (R24) -/
  done : Bool
  /-- STATUS.ERR (R25) -/
  err : Bool
  /-- STATUS.ACCERR (R26) -/
  accErr : Bool
  /-- STATUS.KS_VALID (R35) -/
  ksValid : Bool
  /-- STATUS.P_VALID (R36) -/
  pValid : Bool
  /-- STATUS.Q_VALID (R37) -/
  qValid : Bool
  /-- ERRCODE.CODE (R27) -/
  code : ErrCode
  /-- CMD: the last accepted command word (R34) -/
  cmd : Word
  /-- SEED (R28) -/
  seed : Word
  /-- START (R29) -/
  start : Word
  /-- WIDTH (R30) -/
  width : Word
  /-- HEIGHT (R30) -/
  height : Word
  /-- CAP: constant, the parameter N_MAX (R31) -/
  cap : Word
  /-- XS: the generator's running state (R33) -/
  xs : Word
  /-- WSEL.WIN (R38) -/
  win : BitVec 3
  /-- WSEL.AINC (R38) -/
  ainc : Bool
  /-- WIDX (R39) -/
  widx : Word
  /-- KS, the keystream memory (R42) -/
  ks : Memory Word
  /-- P, the permutation memory (R43) -/
  p : Memory Word
  /-- Q, the inverse-permutation memory (R44) -/
  q : Memory Word
  /-- BUF[0] to BUF[3] (R45) -/
  buf : Buffers
  /-- how many resets came before: numbers the draws that unwritten elements hold (R51, U2) -/
  epoch : Nat
  /-- the turns still to come, the next one first (R77, R112) -/
  schedule : List Turn
  /-- what the last HostRead returned (R60) -/
  rdata : Word
  deriving DecidableEq, Repr

/-- The reasons the machine can stop with a fault. -/
inductive Fault where
  /-- Raised by PINV, SCAT and GATH when a table word names an element that the memory it indexes does not have
  (an index of N_MAX or more). SAFE: the spec's rules keep this from being reached (R49, R151, R161; F6 of
  spec/93_implementation_defined.md: "stuck"), and the model stops rather than choose an effect. -/
  | noSuchElement
  deriving DecidableEq, Repr

/-- The reasons an instruction has no meaning here. -/
inductive Refusal where
  /-- Raised by an arm of exec whose instruction has no meaning yet (no arm of this model). SAFE: the model stops. -/
  | notModelled (mnemonic : String)
  deriving DecidableEq, Repr

/-- The machine right after reset (R21, R50, R51): every register at the reset column's value, CAP at N_MAX, every
memory element the draw of reset 0, no turn scheduled. -/
def State.reset : State where
  ie := false
  busy := false
  done := false
  err := false
  accErr := false
  ksValid := false
  pValid := false
  qValid := false
  code := .clear
  cmd := 0#32
  seed := 0#32
  start := 0#32
  width := 0#32
  height := 0#32
  cap := BitVec.ofNat 32 Config.nMax
  xs := 0#32
  win := 0#3
  ainc := false
  widx := 0#32
  ks := []
  p := []
  q := []
  buf := ⟨[], [], [], []⟩
  epoch := 0
  schedule := []
  rdata := 0#32

end Sys2Proof.Machine
end

