-- ==== Sys2Proof/Machine/Ops.lean ====
section
/-! DEFINITION. The named operations over the internal memories and the registers: MemRead and MemWrite (spec/00_scope.md
R14), accepting, completing and aborting a command (spec/40_command_execution.md R110, R112, R113), reset (spec/70 R230,
R231) and the drop of a bus access (spec/10_state.md R26). -/

namespace Sys2Proof.Machine

/-! ## Memories as data -/

/-- What is stored in element `i`; none where nothing has been stored since reset. -/
def Memory.stored {α : Type} : Memory α → Nat → Option α
  | [], _ => none
  | (j, v) :: rest, i => if i = j then some v else Memory.stored rest i

/-- `MemWrite(M, i, v)`: sets element `i` and changes no other element (R14). -/
def Memory.write {α : Type} : Memory α → Nat → α → Memory α
  | [], i, v => [(i, v)]
  | (j, w) :: rest, i, v =>
    if i < j then (i, v) :: (j, w) :: rest
    else if i = j then (i, v) :: rest
    else (j, w) :: Memory.write rest i v

/-- `for k: MemWrite(M, i + k, vs[k])`, in ascending order. -/
def Memory.writeFrom {α : Type} (m : Memory α) (i : Nat) : List α → Memory α
  | [] => m
  | v :: vs => Memory.writeFrom (m.write i v) (i + 1) vs

/-- `for each (i, v) in order: MemWrite(M, i, v)`. -/
def Memory.writeAll {α : Type} (m : Memory α) : List (Nat × α) → Memory α
  | [] => m
  | (i, v) :: rest => Memory.writeAll (m.write i v) rest

/-- The canonical form: indices strictly rising, each below the memory's capacity. An unlisted element has no stored
value and every listed one has, so memories in this form that store the same are equal data. -/
abbrev Memory.wf {α : Type} (m : Memory α) (capacity : Nat) : Prop :=
  (m.map Prod.fst).Pairwise (· < ·) ∧ ∀ e ∈ m, e.1 < capacity

/-- The memory a buffer name selects (R45, R91). -/
def Buffers.get (bs : Buffers) : BufId → Memory Pixel
  | .b0 => bs.b0
  | .b1 => bs.b1
  | .b2 => bs.b2
  | .b3 => bs.b3

/-- Replaces the memory a buffer name selects. -/
def Buffers.set (bs : Buffers) (b : BufId) (m : Memory Pixel) : Buffers :=
  match b with
  | .b0 => { bs with b0 := m }
  | .b1 => { bs with b1 := m }
  | .b2 => { bs with b2 := m }
  | .b3 => { bs with b3 := m }

/-! ## Reading elements (`MemRead`, R14): the stored value, or the draw taken at reset (R51) -/

/-- `MemRead(KS, i)`. -/
def readKs (s : State) (i : Nat) : Word := (s.ks.stored i).getD (Config.drawKs s.epoch i)

/-- `MemRead(P, i)`. -/
def readP (s : State) (i : Nat) : Word := (s.p.stored i).getD (Config.drawP s.epoch i)

/-- `MemRead(Q, i)`. -/
def readQ (s : State) (i : Nat) : Word := (s.q.stored i).getD (Config.drawQ s.epoch i)

/-- `MemRead(BUF[b], i)`. -/
def readBuf (s : State) (b : BufId) (i : Nat) : Pixel :=
  ((s.buf.get b).stored i).getD (Config.drawBuf s.epoch b i)

/-! ## The life of a command -/

/-- Acceptance of the command word `w` (R110). ACCERR and the valid bits stay. -/
def accept (w : Word) (s : State) : State :=
  { s with cmd := w, busy := true, done := false, err := false, code := .clear }

/-- The end of every completion step: BUSY falls and DONE rises (R112). -/
def finish (s : State) : State := { s with busy := false, done := true }

/-- What an abort records, and nothing else (R113, R202, R207): this hardware's way of taking an error. No pc, mode or
vector exists (R200, R207). The way back is the host's: a W1C write (`clearStatus` of Flags.lean) or the next acceptance
(R208). -/
def abort (c : ErrCode) (s : State) : State := { s with err := true, code := c }

/-! ## The host's side -/

/-- A dropped access sets ACCERR and changes nothing else (R26). -/
def dropAccess (s : State) : State := { s with accErr := true }

/-- The bus returns `v` to a HostRead (R60). -/
def answer (v : Word) (s : State) : State := { s with rdata := v }

/-- The turns that are still to come after this one. -/
def withSchedule (turns : List Turn) (s : State) : State := { s with schedule := turns }

/-- RST (R230, R231): every register takes its reset value, CAP keeps its own (R31), every memory element becomes a new
draw, and an outstanding command is cancelled. The host's accesses still to come and its last read result are not the
block's, and stay. -/
def resetBlock (s : State) : State :=
  { State.reset with cap := s.cap, epoch := s.epoch + 1, schedule := s.schedule, rdata := s.rdata }

/-- The register offset a host physical address reaches, if it lies in the aperture of 4096 bytes at BASE (R11, R60, R75). -/
def offsetAt (addr : Nat) : Option Offset :=
  if Config.base ≤ addr ∧ addr < Config.base + 4096 then some (BitVec.ofNat 12 (addr - Config.base)) else none

end Sys2Proof.Machine
end

