-- ==== Sys2Proof/Machine/Operands.lean ====
section
/-! DEFINITION. Every operand form: N and its bound, the ranges of KS, P, Q and the buffers a command reads, the octets of
START, and the packing of a pixel in a word (spec/00_scope.md R13 to R17, spec/10_state.md R30, R31, spec/20_memory.md R70,
spec/30_encoding.md R91, R92, R99, spec/44_chain_cipher.md R170). -/

namespace Sys2Proof.Machine

/-- `N = WIDTH · HEIGHT`, exact (R17, R30). -/
def State.N (s : State) : Nat := s.width.toNat * s.height.toNat

/-- `N_MAX` as CAP reports it (R31). -/
def State.nMax (s : State) : Nat := s.cap.toNat

/-- The low byte of a word (R13). -/
def lo8 (w : Word) : Byte := w.extractLsb' 0 8

/-- A pixel as one word: lane 0 in bits 7:0, lane 1 in 15:8, lane 2 in 23:16, bits 31:24 zero (R70). -/
def pixelToWord (p : Pixel) : Word := 0#8 ++ p.c2 ++ p.c1 ++ p.c0

/-- The pixel of a word; bits 31:24 are ignored (R70). -/
def wordToPixel (w : Word) : Pixel := ⟨w.extractLsb' 0 8, w.extractLsb' 8 8, w.extractLsb' 16 8⟩

/-- The octets of the start value, one per lane: `s & 0xFF`, `(s >> 8) & 0xFF`, `(s >> 16) & 0xFF` (R170). -/
def startOctets (s : Word) : Pixel :=
  ⟨lo8 (s &&& 0xFF#32), lo8 ((s >>> 8) &&& 0xFF#32), lo8 ((s >>> 16) &&& 0xFF#32)⟩

/-- `KS[a..a+n)` (R17). -/
def ksRange (s : State) (a n : Nat) : List Word := (List.range n).map fun k => readKs s (a + k)

/-- `BUF[b][0..n)` (R17). -/
def bufRange (s : State) (b : BufId) (n : Nat) : List Pixel := (List.range n).map (readBuf s b)

/-- Element `i` of the table T selects (R92). -/
def readTable (s : State) : Table → Nat → Word
  | .P, i => readP s i
  | .Q, i => readQ s i

/-- The first `n` words of the selected table, as indices. -/
def tableRange (s : State) (t : Table) (n : Nat) : List Nat :=
  (List.range n).map fun i => (readTable s t i).toNat

/-- The valid bit that guards the selected table (R111). -/
def tableValid (s : State) : Table → Bool
  | .P => s.pValid
  | .Q => s.qValid

/-- Every index names an element of a memory of N_MAX elements. -/
def inCapacity (s : State) (indices : List Nat) : Bool := indices.all fun j => decide (j < s.nMax)

/-- Stores consecutive words from KS[0]. -/
def storeKs (ws : List Word) (s : State) : State := { s with ks := s.ks.writeFrom 0 ws }

/-- Stores consecutive entries from P[0] (a 32-bit word each, R43). -/
def storeP (perm : List Nat) (s : State) : State := { s with p := s.p.writeFrom 0 (perm.map (BitVec.ofNat 32)) }

/-- Stores entries of Q at the indices given, in order. -/
def storeQ (entries : List (Nat × Nat)) (s : State) : State :=
  { s with q := s.q.writeAll (entries.map fun e => (e.1, BitVec.ofNat 32 e.2)) }

/-- Stores pixels of BUF[b] at the indices given, in order. -/
def storeBuf (b : BufId) (entries : List (Nat × Pixel)) (s : State) : State :=
  { s with buf := s.buf.set b ((s.buf.get b).writeAll entries) }

/-- Numbers the elements of a list from 0: `for i in 0 .. N-1`. -/
def numbered {α : Type} (l : List α) : List (Nat × α) := (List.range l.length).zip l

end Sys2Proof.Machine
end

