-- ==== Sys2Proof/Machine/Flags.lean ====
section
/-! DEFINITION. Every status computation: the words of CTRL, STATUS, ERRCODE, NPIX and WSEL, the W1C write, the events that
set and clear the valid bits, and the interrupt output (spec/10_state.md R22 to R38, spec/60_exceptions.md R201, R210).
There are no condition codes (R47). -/

namespace Sys2Proof.Machine

/-- A single flag as a bit. -/
def flagBit (b : Bool) : BitVec 1 := if b then 1#1 else 0#1

/-- CTRL as read: bit 0 IE, the rest 0 (R22). -/
def ctrlWord (s : State) : Word := 0#31 ++ flagBit s.ie

/-- STATUS as read: bits 6 to 0 are Q_VALID, P_VALID, KS_VALID, ACCERR, ERR, DONE, BUSY, the rest 0 (R23). -/
def statusWord (s : State) : Word :=
  0#25 ++ flagBit s.qValid ++ flagBit s.pValid ++ flagBit s.ksValid ++ flagBit s.accErr ++ flagBit s.err ++
    flagBit s.done ++ flagBit s.busy

/-- The number of an abort code (R201). -/
def codeNumber : ErrCode → BitVec 4
  | .clear => 0#4
  | .illegal => 1#4
  | .size => 2#4
  | .aliasing => 3#4
  | .noKs => 4#4
  | .noTable => 5#4
  | .notPerm => 6#4

/-- ERRCODE as read: bits 3:0 CODE, the rest 0 (R27). -/
def errcodeWord (s : State) : Word := 0#28 ++ codeNumber s.code

/-- NPIX: N, saturated (R32). -/
def npixWord (s : State) : Word := BitVec.ofNat 32 (min s.N 0xFFFFFFFF)

/-- WSEL as read: bits 2:0 WIN, bit 8 AINC, the rest 0 (R38). -/
def wselWord (s : State) : Word := 0#23 ++ flagBit s.ainc ++ 0#5 ++ s.win

/-- The interrupt output, `CTRL.IE & STATUS.DONE` (R210). -/
def irq (s : State) : Bool := s.ie && s.done

/-- A write to STATUS clears DONE, ERR and ACCERR where the written bit is 1, and changes nothing else (R23). -/
def clearStatus (v : Word) (s : State) : State :=
  { s with
    done := s.done && !v.getLsbD 1
    err := s.err && !v.getLsbD 2
    accErr := s.accErr && !v.getLsbD 3 }

/-- Sets the three valid bits. -/
def setValid (ks p q : Bool) (s : State) : State := { s with ksValid := ks, pValid := p, qValid := q }

/-- A SEED write: KS no longer is this seed's keystream (R28, R35). -/
abbrev invalidateKs (s : State) : State := setValid false s.pValid s.qValid s

/-- A P write: neither P nor Q is known to be a bijection (R36, R37). -/
abbrev invalidateTables (s : State) : State := setValid s.ksValid false false s

/-- A WIDTH or HEIGHT write clears all three valid bits (R30). -/
abbrev invalidateAll (s : State) : State := setValid false false false s

/-- A successful GEN, ENC or DEC sets KS_VALID (R35). -/
abbrev validateKs (s : State) : State := setValid true s.pValid s.qValid s

/-- A successful PBUILD or ENC sets P_VALID and clears Q_VALID (R36, R37). -/
abbrev validateNewP (s : State) : State := setValid s.ksValid true false s

/-- A successful PCHK sets P_VALID and leaves Q_VALID (R36, R37). -/
abbrev validateP (s : State) : State := setValid s.ksValid true s.qValid s

/-- A successful PINV sets Q_VALID (R37). -/
abbrev validateQ (s : State) : State := setValid s.ksValid s.pValid true s

/-- A successful DEC sets P_VALID and Q_VALID (R36, R37). -/
abbrev validateTables (s : State) : State := setValid s.ksValid true true s

/-- The generator leaves its last word in XS (R33). -/
def setXs (w : Word) (s : State) : State := { s with xs := w }

end Sys2Proof.Machine
end

