-- ==== Sys2Proof/Machine/Bus.lean ====
section
/-! DEFINITION. The host's bus accesses: the register map, the indexed window, and what is dropped
(spec/10_state.md R21 to R41, spec/20_memory.md R60 to R74). -/

namespace Sys2Proof.Machine

/-- The register an aligned offset maps to; none from 0x038 on (R21, R41). -/
def regAt (off : Offset) : Option Reg :=
  match off with
  | 0x000#12 => some .ctrl
  | 0x004#12 => some .status
  | 0x008#12 => some .errcode
  | 0x00C#12 => some .cmd
  | 0x010#12 => some .seed
  | 0x014#12 => some .start
  | 0x018#12 => some .width
  | 0x01C#12 => some .height
  | 0x020#12 => some .npix
  | 0x024#12 => some .cap
  | 0x028#12 => some .xs
  | 0x02C#12 => some .wsel
  | 0x030#12 => some .widx
  | 0x034#12 => some .wdata
  | _ => none

/-- The register a bus access reaches: none where the access is narrow or misaligned (R61) or the offset is unmapped
(R63); either is dropped. -/
def reached (op : HostOp) : Option Reg := if op.wf then regAt op.off else none

/-- The window range `cap(W)` (R64). -/
def windowRange (s : State) : Nat :=
  match s.win with
  | 4#3 => 2 * s.nMax
  | 7#3 => 0
  | _ => s.nMax

/-- The buffer that windows 0 to 3 select (R38). -/
def windowBuf (win : BitVec 3) : Option BufId :=
  match win with
  | 0#3 => some .b0
  | 1#3 => some .b1
  | 2#3 => some .b2
  | 3#3 => some .b3
  | _ => none

/-- The element `elem(W, WIDX)` of the selected window, a pixel packed in a word (R62, R70); none for window 7. -/
def windowElem (s : State) : Option Word :=
  match s.win with
  | 4#3 => some (readKs s s.widx.toNat)
  | 5#3 => some (readP s s.widx.toNat)
  | 6#3 => some (readQ s s.widx.toNat)
  | w => (windowBuf w).map fun b => pixelToWord (readBuf s b s.widx.toNat)

/-- Auto-increment: WIDX + 1 mod 2^32 when WSEL.AINC = 1 (R65). -/
def advance (s : State) : State := if s.ainc then { s with widx := s.widx + 1#32 } else s

/-- HostRead of WDATA (R62). -/
def readWdata (s : State) : State :=
  if s.busy then answer 0#32 (dropAccess s)
  else if s.widx.toNat < windowRange s then
    match windowElem s with
    | some v => advance (answer v s)
    | none => advance (answer 0#32 (dropAccess s))
  else advance (answer 0#32 (dropAccess s))

/-- Stores into the selected window where it is writable: a buffer, or P, which clears P_VALID and Q_VALID; a write to KS,
Q or window 7 is dropped (R66, R67). -/
def storeWindow (v : Word) (s : State) : State :=
  match s.win with
  | 4#3 => dropAccess s
  | 5#3 => invalidateTables { s with p := s.p.write s.widx.toNat v }
  | 6#3 => dropAccess s
  | w =>
    match windowBuf w with
    | some b => storeBuf b [(s.widx.toNat, wordToPixel v)] s
    | none => dropAccess s

/-- HostWrite of WDATA (R67). -/
def writeWdata (v : Word) (s : State) : State :=
  if s.busy then dropAccess s
  else if s.widx.toNat < windowRange s then advance (storeWindow v s)
  else advance (dropAccess s)

/-- The value a read of a stored or computed register returns (R22 to R39); WDATA is no storage register (R40). -/
def regValue (s : State) : Reg → Word
  | .ctrl => ctrlWord s
  | .status => statusWord s
  | .errcode => errcodeWord s
  | .cmd => s.cmd
  | .seed => s.seed
  | .start => s.start
  | .width => s.width
  | .height => s.height
  | .npix => npixWord s
  | .cap => s.cap
  | .xs => s.xs
  | .wsel => wselWord s
  | .widx => s.widx
  | .wdata => 0#32

/-- HostRead of a mapped register. Only a WDATA read has an effect of its own (R62, R74). -/
def readReg (s : State) : Reg → State
  | .wdata => readWdata s
  | .ctrl => answer (regValue s .ctrl) s
  | .status => answer (regValue s .status) s
  | .errcode => answer (regValue s .errcode) s
  | .cmd => answer (regValue s .cmd) s
  | .seed => answer (regValue s .seed) s
  | .start => answer (regValue s .start) s
  | .width => answer (regValue s .width) s
  | .height => answer (regValue s .height) s
  | .npix => answer (regValue s .npix) s
  | .cap => answer (regValue s .cap) s
  | .xs => answer (regValue s .xs) s
  | .wsel => answer (regValue s .wsel) s
  | .widx => answer (regValue s .widx) s

/-- A write that takes effect only while BUSY = 0; while BUSY = 1 it is dropped (R68). -/
def whenIdle (s t : State) : State := if s.busy then dropAccess s else t

/-- HostWrite of a mapped register (R22 to R39, R67 to R69). CTRL and STATUS take effect while busy (R68); ERRCODE, NPIX,
CAP and XS are wholly read-only (R69). -/
def writeReg (v : Word) (s : State) : Reg → State
  | .ctrl => { s with ie := v.getLsbD 0 }
  | .status => clearStatus v s
  | .errcode => dropAccess s
  | .cmd => whenIdle s (accept v s)
  | .seed => whenIdle s (invalidateKs { s with seed := v })
  | .start => whenIdle s { s with start := v }
  | .width => whenIdle s (invalidateAll { s with width := v })
  | .height => whenIdle s (invalidateAll { s with height := v })
  | .npix => dropAccess s
  | .cap => dropAccess s
  | .xs => dropAccess s
  | .wsel => whenIdle s { s with win := v.extractLsb' 0 3, ainc := v.getLsbD 8 }
  | .widx => whenIdle s { s with widx := v }
  | .wdata => writeWdata v s

/-- One bus access of the host (R60): a dropped read returns 0, a dropped write changes nothing, and either sets ACCERR
(R61, R63). -/
def hostAccess (op : HostOp) (s : State) : State :=
  match op, reached op with
  | .read _ _, some r => readReg s r
  | .read _ _, none => answer 0#32 (dropAccess s)
  | .write _ _ v, some r => writeReg v s r
  | .write _ _ _, none => dropAccess s

end Sys2Proof.Machine
end

