-- ==== Sys2Proof/Machine/Functions.lean ====
section
/-! DEFINITION. The document's sequence functions (spec/00_scope.md R16): the generator, the permutation builder and
inverter, the bijection test, scatter and unscatter, and the chain cipher (spec/41_keystream.md R130, R131;
spec/42_permutation.md R141, R151, R153; spec/43_scatter.md R161, R164; spec/44_chain_cipher.md R171, R173, R176). -/

namespace Sys2Proof.Machine

/-- One update of the generator: three exclusive ors with shifts, each reading the result of the one before (R130). -/
def xsStep (x : Word) : Word :=
  let a := x ^^^ (x <<< 13)
  let b := a ^^^ (a >>> 17)
  b ^^^ (b <<< 5)

/-- `generate(seed, count)`: the first word is `xs(seed)` (R131). -/
def generate (seed : Word) : Nat → List Word
  | 0 => []
  | count + 1 => xsStep seed :: generate (xsStep seed) count

/-- Exchanges two entries of a list. -/
def swapEntries {α : Type} (l : List α) (i r : Nat) : List α :=
  match l[i]?, l[r]? with
  | some a, some b => (l.set i b).set r a
  | _, _ => l

/-- The loop of `build` from index `i` down to 1: `r = draws[i] mod (i+1)`, then a swap of entries i and r (R141, R142). -/
def buildFrom (draws : List Word) : Nat → List Nat → List Nat
  | 0, perm => perm
  | i + 1, perm =>
    let r := (draws.getD (i + 1) 0#32).toNat % (i + 2)
    buildFrom draws i (swapEntries perm (i + 1) r)

/-- `build(N, draws)`: from the identity, for i from N−1 down to 1 (R141). -/
def build (n : Nat) (draws : List Word) : List Nat := buildFrom draws (n - 1) (List.range n)

/-- Stores into a list at the indices given, in order: `for each (j, x): out[j] <- x`. -/
def storeEach {α : Type} (out : List α) : List (Nat × α) → List α
  | [] => out
  | (j, x) :: rest => storeEach (out.set j x) rest

/-- `invert(P)` for a bijection P: `Q[P[i]] <- i` (R151). Every entry of the result is stored once, so what the list
starts with (here P) does not matter. -/
def invert (P : List Nat) : List Nat := storeEach P (P.zip (List.range P.length))

/-- `isPerm(P, N)`: every value in [0, N) occurs exactly once among the N words (R153). -/
def isPerm (P : List Nat) (n : Nat) : Bool := (List.range n).all fun v => P.count v == 1

/-- `scatter(src, T)` for a bijection T: `out[T[i]] <- src[i]` (R161). Every entry of the result is stored once, so what
the list starts with (here src) does not matter. -/
def scatter {α : Type} (src : List α) (T : List Nat) : List α := storeEach src (T.zip src)

/-- `unscatter(src, T)` for a bijection T: `out[i] = src[T[i]]` (R164). -/
def unscatter {α : Type} (src : List α) (T : List Nat) : List α := T.filterMap fun j => src[j]?

/-- One lane of the cipher: the low 8 bits of the 32-bit exclusive or (R173). -/
def mixLane (prev x : Byte) (k : Word) : Byte := lo8 (prev.setWidth 32 ^^^ x.setWidth 32 ^^^ k)

/-- One pixel of the cipher: each lane by itself, all three with the same keystream word (R171, R174, R176). -/
def mixPixel (prev x : Pixel) (k : Word) : Pixel :=
  ⟨mixLane prev.c0 x.c0 k, mixLane prev.c1 x.c1 k, mixLane prev.c2 x.c2 k⟩

/-- The forward chain after the ciphertext pixel `prev` (R171). -/
def chainForward (prev : Pixel) : List Pixel → List Word → List Pixel
  | x :: xs, k :: ks => mixPixel prev x k :: chainForward (mixPixel prev x k) xs ks
  | _, _ => []

/-- `forward(plain, ks, startValue)` (R171). -/
def forward (plain : List Pixel) (ks : List Word) (startValue : Word) : List Pixel :=
  chainForward (startOctets startValue) plain ks

/-- The reverse chain after the INPUT pixel `prev`: the source is the ciphertext's own neighbour (R176). -/
def chainReverse (prev : Pixel) : List Pixel → List Word → List Pixel
  | x :: xs, k :: ks => mixPixel prev x k :: chainReverse x xs ks
  | _, _ => []

/-- `reverse(cipher, ks, startValue)` (R176). -/
def reverse (cipher : List Pixel) (ks : List Word) (startValue : Word) : List Pixel :=
  chainReverse (startOctets startValue) cipher ks

end Sys2Proof.Machine
end

