-- ==== Sys2Proof/Machine/Command.lean ====
section
/-! DEFINITION. The checks every command passes before it executes, in their fixed order, and the completion step that the
meanings share (spec/40_command_execution.md R111 to R114). -/

namespace Sys2Proof.Machine

/-- The table words P[0..N) form a bijection on [0, N) (R153). -/
def holdsPerm (s : State) : Bool := isPerm (tableRange s .P s.N) s.N

/-- Check 2: `c.op != NOP and N > N_MAX` (R111). -/
def failsSize (i : Instr) (s : State) : Bool :=
  match i with
  | .nop => false
  | .gen | .pbuild | .pinv | .pchk | .scat _ _ _ | .gath _ _ _ | .cfwd _ _ | .crev _ _ | .enc _ _ | .dec _ _ =>
    decide (s.nMax < s.N)

/-- Check 3: a buffer-to-buffer command with SRC = DST (R111, R242). -/
def failsAlias : Instr → Bool
  | .nop | .gen | .pbuild | .pinv | .pchk => false
  | .scat src dst _ | .gath src dst _ => src == dst
  | .cfwd src dst | .crev src dst | .enc src dst | .dec src dst => src == dst

/-- Check 4: PBUILD, CFWD or CREV with KS_VALID = 0 (R111). -/
def failsKs (i : Instr) (s : State) : Bool :=
  match i with
  | .pbuild | .cfwd _ _ | .crev _ _ => !s.ksValid
  | .nop | .gen | .pinv | .pchk | .scat _ _ _ | .gath _ _ _ | .enc _ _ | .dec _ _ => false

/-- Check 5: PINV with P_VALID = 0; SCAT or GATH whose selected table is not valid (R111). -/
def failsTable (i : Instr) (s : State) : Bool :=
  match i with
  | .pinv => !s.pValid
  | .scat _ _ t | .gath _ _ t => !tableValid s t
  | .nop | .gen | .pbuild | .pchk | .cfwd _ _ | .crev _ _ | .enc _ _ | .dec _ _ => false

/-- Check 6: PCHK where P[0..N) is no bijection (R111). -/
def failsPerm (i : Instr) (s : State) : Bool :=
  match i with
  | .pchk => !holdsPerm s
  | .nop | .gen | .pbuild | .pinv | .scat _ _ _ | .gath _ _ _ | .cfwd _ _ | .crev _ _ | .enc _ _ | .dec _ _ => false

/-- `check` of R111 for a word that decodes to `i`: the code of the first check that fails; none where all pass.
Check 1, ILLEGAL, is the decoder's refusal (`completion` of Fetch.lean). -/
def check (i : Instr) (s : State) : Option ErrCode :=
  if failsSize i s then some .size
  else if failsAlias i then some .aliasing
  else if failsKs i s then some .noKs
  else if failsTable i s then some .noTable
  else if failsPerm i s then some .notPerm
  else none

/-- The completion step of a command that decoded to `i` (R112): the checks, then either the abort or `execute`, then
BUSY falls and DONE rises. `execute` stops with a fault only where a table word names no element. -/
def runCommand (i : Instr) (execute : State → Host.Outcome State Fault Refusal) (s : State) :
    Host.Outcome State Fault Refusal :=
  match check i s with
  | some c => .next (finish (abort c s))
  | none =>
    match execute s with
    | .next t => .next (finish t)
    | .fault f => .fault f
    | .refused r => .refused r

/-- Goes on to `t` where the indices all name elements of a memory of N_MAX elements; stops otherwise. -/
def whenInCapacity (indices : List Nat) (t : State) (s : State) : Host.Outcome State Fault Refusal :=
  if inCapacity s indices then .next t else .fault .noSuchElement

end Sys2Proof.Machine
end

