-- ==== Sys2Proof/Machine/ChainCipher.lean ====
section
/-! DEFINITION. CFWD and CREV (spec/44_chain_cipher.md R172, R177). -/

namespace Sys2Proof.Machine

/-- `execute(CFWD)`: BUF[dst][0..N) becomes `forward(BUF[src][0..N), KS[N..2N), START)` (R172). -/
def executeCfwd (src dst : BufId) (s : State) : Host.Outcome State Fault Refusal :=
  .next (storeBuf dst (numbered (forward (bufRange s src s.N) (ksRange s s.N s.N) s.start)) s)

/-- CFWD (R172). -/
def execCfwd (src dst : BufId) (s : State) : Host.Outcome State Fault Refusal :=
  runCommand (.cfwd src dst) (executeCfwd src dst) s

/-- `execute(CREV)`: BUF[dst][0..N) becomes `reverse(BUF[src][0..N), KS[N..2N), START)` (R177). -/
def executeCrev (src dst : BufId) (s : State) : Host.Outcome State Fault Refusal :=
  .next (storeBuf dst (numbered (reverse (bufRange s src s.N) (ksRange s s.N s.N) s.start)) s)

/-- CREV (R177). -/
def execCrev (src dst : BufId) (s : State) : Host.Outcome State Fault Refusal :=
  runCommand (.crev src dst) (executeCrev src dst) s

end Sys2Proof.Machine
end

