-- ==== Sys2Proof/Machine/Control.lean ====
section
/-! DEFINITION. NOP (spec/40_command_execution.md R118). -/

namespace Sys2Proof.Machine

/-- `execute(NOP): skip` (R118). -/
def executeNop (s : State) : Host.Outcome State Fault Refusal := .next s

/-- NOP (R118). It checks nothing, not even SIZE. -/
def execNop (s : State) : Host.Outcome State Fault Refusal := runCommand .nop executeNop s

end Sys2Proof.Machine
end

