-- ==== Sys2Proof/Machine/Keystream.lean ====
section
/-! DEFINITION. GEN (spec/41_keystream.md R132). -/

namespace Sys2Proof.Machine

/-- The words a command generates: `generate(SEED, 2N)` (R132, R190, R192). -/
def keystream (s : State) : List Word := generate s.seed (2 * s.N)

/-- Stores the keystream: KS[0..2N), the last word (SEED when there is none) in XS, and KS_VALID (R132). -/
def storeKeystream (s : State) : State :=
  validateKs (setXs ((keystream s).getLastD s.seed) (storeKs (keystream s) s))

/-- `execute(GEN)` (R132). -/
def executeGen (s : State) : Host.Outcome State Fault Refusal := .next (storeKeystream s)

/-- GEN (R132). -/
def execGen (s : State) : Host.Outcome State Fault Refusal := runCommand .gen executeGen s

end Sys2Proof.Machine
end

