-- ==== Sys2Proof/Machine/Permutation.lean ====
section
/-! DEFINITION. PBUILD, PINV and PCHK (spec/42_permutation.md R143, R152, R154). -/

namespace Sys2Proof.Machine

/-- `execute(PBUILD)`: P[0..N) becomes `build(N, KS[0..N))` (R143). -/
def executePbuild (s : State) : Host.Outcome State Fault Refusal :=
  .next (validateNewP (storeP (build s.N (ksRange s 0 s.N)) s))

/-- PBUILD (R143). -/
def execPbuild (s : State) : Host.Outcome State Fault Refusal := runCommand .pbuild executePbuild s

/-- `execute(PINV)`: `for i: MemWrite(Q, MemRead(P, i), i)` (R152). -/
def executePinv (s : State) : Host.Outcome State Fault Refusal :=
  whenInCapacity (tableRange s .P s.N)
    (validateQ (storeQ ((tableRange s .P s.N).zip (List.range s.N)) s)) s

/-- PINV (R152). -/
def execPinv (s : State) : Host.Outcome State Fault Refusal := runCommand .pinv executePinv s

/-- `execute(PCHK)`: reached only when P[0..N) is a bijection, it sets P_VALID and leaves Q_VALID (R154). -/
def executePchk (s : State) : Host.Outcome State Fault Refusal := .next (validateP s)

/-- PCHK (R154). -/
def execPchk (s : State) : Host.Outcome State Fault Refusal := runCommand .pchk executePchk s

end Sys2Proof.Machine
end

