-- ==== Sys2Proof/Machine/Pipeline.lean ====
section
/-! DEFINITION. The pipeline compositions ENC and DEC (spec/45_pipeline.md R190, R192). -/

namespace Sys2Proof.Machine

/-- The permutation both compositions build: `build(N, ks[0..N))` (R190, R192). -/
def keyPermutation (s : State) : List Nat := build s.N ((keystream s).take s.N)

/-- What ENC writes to BUF[dst]: `forward(scatter(BUF[src], perm), ks[N..2N), START)` (R190). -/
def encrypted (src : BufId) (s : State) : List Pixel :=
  forward (scatter (bufRange s src s.N) (keyPermutation s)) ((keystream s).drop s.N) s.start

/-- What DEC writes to BUF[dst]: `scatter(reverse(BUF[src], ks[N..2N), START), invert(perm))` (R192). -/
def decrypted (src : BufId) (s : State) : List Pixel :=
  scatter (reverse (bufRange s src s.N) ((keystream s).drop s.N) s.start) (invert (keyPermutation s))

/-- `execute(ENC)`: KS, XS, P and BUF[dst] written; KS_VALID and P_VALID set, Q_VALID cleared (R190). -/
def executeEnc (src dst : BufId) (s : State) : Host.Outcome State Fault Refusal :=
  .next (validateNewP (storeBuf dst (numbered (encrypted src s)) (storeP (keyPermutation s) (storeKeystream s))))

/-- ENC (R190). -/
def execEnc (src dst : BufId) (s : State) : Host.Outcome State Fault Refusal :=
  runCommand (.enc src dst) (executeEnc src dst) s

/-- `execute(DEC)`: KS, XS, P, Q and BUF[dst] written; all three valid bits set (R192). -/
def executeDec (src dst : BufId) (s : State) : Host.Outcome State Fault Refusal :=
  .next (validateTables (storeBuf dst (numbered (decrypted src s))
    (storeQ (numbered (invert (keyPermutation s))) (storeP (keyPermutation s) (storeKeystream s)))))

/-- DEC (R192). -/
def execDec (src dst : BufId) (s : State) : Host.Outcome State Fault Refusal :=
  runCommand (.dec src dst) (executeDec src dst) s

end Sys2Proof.Machine
end

