-- ==== Sys2Proof/Machine/Scatter.lean ====
section
/-! DEFINITION. SCAT and GATH (spec/43_scatter.md R162, R165). -/

namespace Sys2Proof.Machine

/-- `execute(SCAT)`: `for i: MemWrite(BUF[dst], MemRead(Tbl, i), MemRead(BUF[src], i))` (R162). -/
def executeScat (src dst : BufId) (t : Table) (s : State) : Host.Outcome State Fault Refusal :=
  whenInCapacity (tableRange s t s.N)
    (storeBuf dst ((tableRange s t s.N).zip (bufRange s src s.N)) s) s

/-- SCAT (R162). -/
def execScat (src dst : BufId) (t : Table) (s : State) : Host.Outcome State Fault Refusal :=
  runCommand (.scat src dst t) (executeScat src dst t) s

/-- `execute(GATH)`: `for i: MemWrite(BUF[dst], i, MemRead(BUF[src], MemRead(Tbl, i)))` (R165). -/
def executeGath (src dst : BufId) (t : Table) (s : State) : Host.Outcome State Fault Refusal :=
  whenInCapacity (tableRange s t s.N)
    (storeBuf dst (numbered ((tableRange s t s.N).map (readBuf s src))) s) s

/-- GATH (R165). -/
def execGath (src dst : BufId) (t : Table) (s : State) : Host.Outcome State Fault Refusal :=
  runCommand (.gath src dst t) (executeGath src dst t) s

end Sys2Proof.Machine
end

