-- ==== Sys2Proof/Machine/Dispatch.lean ====
section
/-! DEFINITION. One arm per command: `exec i s` is the completion step of a command word that decodes to `i`
(spec/40_command_execution.md R112). -/

namespace Sys2Proof.Machine

def exec (i : Instr) (s : State) : Host.Outcome State Fault Refusal :=
  match i with
  | .nop => Sys2Proof.Machine.execNop s
  | .gen => Sys2Proof.Machine.execGen s
  | .pbuild => Sys2Proof.Machine.execPbuild s
  | .pinv => Sys2Proof.Machine.execPinv s
  | .pchk => Sys2Proof.Machine.execPchk s
  | .scat src dst t => Sys2Proof.Machine.execScat src dst t s
  | .gath src dst t => Sys2Proof.Machine.execGath src dst t s
  | .cfwd src dst => Sys2Proof.Machine.execCfwd src dst s
  | .crev src dst => Sys2Proof.Machine.execCrev src dst s
  | .enc src dst => Sys2Proof.Machine.execEnc src dst s
  | .dec src dst => Sys2Proof.Machine.execDec src dst s

end Sys2Proof.Machine
end

