-- ==== Sys2Proof/Machine/Fetch.lean ====
section
/-! DEFINITION. The completion step of the block (spec/40_command_execution.md R112) and the turns of block, host and RST
(spec/10_state.md R20, spec/20_memory.md R77, spec/70_reset_and_hazards.md R230). -/

namespace Sys2Proof.Machine

/-- The completion step: the word in CMD is decoded; ILLEGAL aborts with code 1 (R97, R111), a command is run. -/
def completion (s : State) : Host.Outcome State Fault Refusal :=
  match decode s.cmd with
  | .ok i => exec i s
  | .error _ => .next (finish (abort .illegal s))

/-- The block's turn: it completes the outstanding command; with none outstanding it has no step to take (R112). -/
def blockTurn (s : State) : Host.Outcome State Fault Refusal :=
  if s.busy then completion s else .next s

/-- One turn. With no turn scheduled the host makes no access, and an outstanding command completes (R112). -/
def takeTurn (s : State) : Host.Outcome State Fault Refusal :=
  match s.schedule with
  | [] => blockTurn s
  | .host op :: rest => .next (hostAccess op (withSchedule rest s))
  | .block :: rest => blockTurn (withSchedule rest s)
  | .reset :: rest => .next (resetBlock (withSchedule rest s))

end Sys2Proof.Machine
end

