-- ==== Sys2Proof/Machine/Step.lean ====
section
/-! DEFINITION. One step of the machine, and how the host of this model has one command word run
(spec/10_state.md R20, spec/40_command_execution.md R110, R112). -/

namespace Sys2Proof.Machine

/-- One step: the next turn. -/
def step (s : State) : Host.Outcome State Fault Refusal := takeTurn s

/-- The state in which `w` has been accepted as a command word and the block has the next turn: the next step runs exactly
it. This machine fetches nothing (R80, R232); the word stands for the host's CMD write (notes/assumptions/5.md). -/
def State.withFetchWord (s : State) (nbits w : Nat) : State :=
  withSchedule (.block :: s.schedule) (accept (tableWord nbits w) s)

end Sys2Proof.Machine
end

