-- ==== Sys2Proof/Safety.lean ====
section
/-! DEFINITION. What claims about CAPP-CORE speak of: the invariant of every reachable state (spec/10_state.md R49), the
three kinds of turn as steps, a command from its CMD write to its completion, and the checks of a command as the spec
words them (spec/40_command_execution.md R110 to R113). -/

namespace Sys2Proof.Machine

/-- CAP holds a legal N_MAX (R9). -/
def CapInRange (s : State) : Prop := 1 ≤ s.nMax ∧ s.nMax ≤ 2 ^ 31

/-- Every internal memory is in canonical form and lists no element beyond its capacity (R42 to R45). -/
def MemoriesWf (s : State) : Prop :=
  s.ks.wf (2 * s.nMax) ∧ s.p.wf s.nMax ∧ s.q.wf s.nMax ∧ ∀ b, (s.buf.get b).wf s.nMax

/-- The words of the selected table at [0, N) are a bijection on [0, N): as a multiset they are 0, …, N−1 (R49). -/
def IsBijection (s : State) (t : Table) : Prop := (tableRange s t s.N).Perm (List.range s.N)

/-- R49, first point: what KS_VALID = 1 says. -/
def KsValidMeaning (s : State) : Prop :=
  s.ksValid = true → s.N ≤ s.nMax ∧ ksRange s 0 (2 * s.N) = generate s.seed (2 * s.N)

/-- R49, second point: what P_VALID = 1 says. -/
def PValidMeaning (s : State) : Prop := s.pValid = true → s.N ≤ s.nMax ∧ IsBijection s .P

/-- R49, third point: what Q_VALID = 1 says. -/
def QValidMeaning (s : State) : Prop :=
  s.qValid = true → s.pValid = true ∧ ∀ i < s.N, (readQ s (readP s i).toNat).toNat = i

/-- While a command is outstanding DONE, ERR and ERRCODE stay as its acceptance left them (R24, R25, R27, R110), and
ERR = 1 stands beside a code other than 0 (R25, R113). -/
def StatusConsistent (s : State) : Prop :=
  (s.busy = true → s.done = false ∧ s.err = false ∧ s.code = .clear) ∧ (s.err = true → s.code ≠ .clear)

/-- The invariant of the machine: R49 with what it rests on. -/
structure Inv (s : State) : Prop where
  cap : CapInRange s
  mem : MemoriesWf s
  ksOk : KsValidMeaning s
  pOk : PValidMeaning s
  qOk : QValidMeaning s
  status : StatusConsistent s

/-- The step in which the host makes the access `op`; the turns scheduled in `s` come after it. -/
def hostStep (op : HostOp) (s : State) : Host.Outcome State Fault Refusal :=
  step (withSchedule (.host op :: s.schedule) s)

/-- `HostRead(off)`, a 32-bit access. -/
def hostRead (off : Offset) (s : State) : Host.Outcome State Fault Refusal := hostStep (.read .word off) s

/-- `HostWrite(off, v)`, a 32-bit access. -/
def hostWrite (off : Offset) (v : Word) (s : State) : Host.Outcome State Fault Refusal := hostStep (.write .word off v) s

/-- The step that is the block's turn. -/
def blockStep (s : State) : Host.Outcome State Fault Refusal := step (withSchedule (.block :: s.schedule) s)

/-- The step in which RST is pulsed. -/
def resetStep (s : State) : Host.Outcome State Fault Refusal := step (withSchedule (.reset :: s.schedule) s)

/-- One step after another; the first stop ends it. -/
def andThen (o : Host.Outcome State Fault Refusal) (f : State → Host.Outcome State Fault Refusal) :
    Host.Outcome State Fault Refusal :=
  match o with
  | .next s => f s
  | .fault r => .fault r
  | .refused r => .refused r

/-- The host writes the command's word to CMD (offset 0x00C) and the block completes it: `cmd X` of R102. -/
def command (i : Instr) (s : State) : Host.Outcome State Fault Refusal :=
  andThen (hostWrite 0x00C#12 (encode i) s) blockStep

/-- The commands in order, each from its CMD write to its completion. -/
def commands : List Instr → State → Host.Outcome State Fault Refusal
  | [], s => .next s
  | i :: rest, s => andThen (command i s) (commands rest)

/-- The next step of `s` is the completion step of the command `i`: BUSY is 1, CMD holds a word of `i`, and the block
moves next (R112). -/
def Completes (s : State) (i : Instr) : Prop :=
  s.busy = true ∧ decode s.cmd = .ok i ∧ (s.schedule = [] ∨ ∃ rest, s.schedule = .block :: rest)

/-- The completion of `i` in `s` aborts with code `c`: ERR and ERRCODE record it, BUSY falls, DONE rises, nothing else
changes (R112, R113). -/
def AbortsWith (i : Instr) (s : State) (c : ErrCode) : Prop :=
  exec i s = .next { s with err := true, code := c, busy := false, done := true }

/-- The checks of R111 as the spec words them, by the code each raises; ILLEGAL and NONE are no check of a command that
decoded. -/
def CheckFails (i : Instr) (s : State) : ErrCode → Prop
  | .clear => False
  | .illegal => False
  | .size => i ≠ .nop ∧ s.N > s.nMax
  | .aliasing => ∃ b t, i ∈ [.scat b b t, .gath b b t, .cfwd b b, .crev b b, .enc b b, .dec b b]
  | .noKs => s.ksValid = false ∧ (i = .pbuild ∨ ∃ a b, i = .cfwd a b ∨ i = .crev a b)
  | .noTable => (i = .pinv ∧ s.pValid = false) ∨
      (∃ a b, (i = .scat a b .P ∨ i = .gath a b .P) ∧ s.pValid = false) ∨
      (∃ a b, (i = .scat a b .Q ∨ i = .gath a b .Q) ∧ s.qValid = false)
  | .notPerm => i = .pchk ∧ ¬ IsBijection s .P

/-- The number of a buffer, b0 to b3 (R91, R100). -/
def bufNumber : BufId → Nat
  | .b0 => 0
  | .b1 => 1
  | .b2 => 2
  | .b3 => 3

/-- The number of a table: 0 is P, 1 is Q (R92, R100). -/
def tableNumber : Table → Nat
  | .P => 0
  | .Q => 1

/-- WIDX after a WDATA access that is not dropped for BUSY (R65). -/
def nextWidx (s : State) : Word := if s.ainc then s.widx + 1#32 else s.widx

end Sys2Proof.Machine
end

