-- ==== Sys2Proof/Certificates/Slice0/Obligations.lean ====
section
/-! DEFINITION. The statements about CAPP-CORE that are to be proved, one definition each; the rules they formalise are
those of spec/. -/

open Sys2Proof Sys2Proof.Machine

/-! ## Encoding -/

/-- Words of spec/95_test_vectors.md section 2.1, written out from the format of R90 and the opcodes of R95, decode to
the commands named there; the illegal ones decode to none. -/
def Obligations.SampleWordsDecode : Prop :=
  (∀ e ∈ [(0x00000000#32, Instr.nop), (0x00000001#32, .gen), (0x00000002#32, .pbuild), (0x00000003#32, .pinv),
      (0x00000004#32, .pchk), (0x00000410#32, .scat .b0 .b1 .P), (0x00001710#32, .scat .b3 .b1 .Q),
      (0x00000911#32, .gath .b1 .b2 .P), (0x00000920#32, .cfwd .b1 .b2), (0x00000E21#32, .crev .b2 .b3),
      (0x00000E30#32, .enc .b2 .b3), (0x00000131#32, .dec .b1 .b0)], decode e.1 = .ok e.2) ∧
  ∀ w ∈ [0x00000005#32, 0x000000FF#32, 0x00000100#32, 0x00001001#32, 0x00001020#32, 0x00002010#32, 0x80000430#32],
    ∀ i, decode w ≠ .ok i

/-- Every well-formed command is what its encoding decodes to, with every operand at every value the encoding admits, and
no other word decodes to it. -/
def Obligations.DecodeInvertsEncode : Prop :=
  (∀ i : Instr, i.wf = true → decode (encode i) = .ok i) ∧ ∀ (w : Word) (i : Instr), decode w = .ok i → w = encode i

/-- R96: the pseudocode of `decode`, in numbers, and the legality sentence with the rows of spec/opcode_table.json. -/
def Obligations.DecodeFollowsPseudocode : Prop :=
  ∀ w : Word,
    (∀ e ∈ [(0x00, Instr.nop), (0x01, .gen), (0x02, .pbuild), (0x03, .pinv), (0x04, .pchk)],
      w.toNat % 256 = e.1 → decode w = if w.toNat / 2 ^ 8 ≠ 0 then .error .nonzeroUnused else .ok e.2) ∧
    (∀ a b t, (w.toNat / 2 ^ 8 % 4, a) ∈ [(0, BufId.b0), (1, .b1), (2, .b2), (3, .b3)] →
      (w.toNat / 2 ^ 10 % 4, b) ∈ [(0, BufId.b0), (1, .b1), (2, .b2), (3, .b3)] →
      (w.toNat / 2 ^ 12 % 2, t) ∈ [(0, Table.P), (1, .Q)] →
      (∀ e ∈ [(0x10, Instr.scat a b t), (0x11, .gath a b t)],
        w.toNat % 256 = e.1 → decode w = if w.toNat / 2 ^ 13 ≠ 0 then .error .nonzeroUnused else .ok e.2) ∧
      ∀ e ∈ [(0x20, Instr.cfwd a b), (0x21, .crev a b), (0x30, .enc a b), (0x31, .dec a b)],
        w.toNat % 256 = e.1 → decode w = if w.toNat / 2 ^ 12 ≠ 0 then .error .nonzeroUnused else .ok e.2) ∧
    (w.toNat % 256 ∉ [0x00, 0x01, 0x02, 0x03, 0x04, 0x10, 0x11, 0x20, 0x21, 0x30, 0x31] →
      decode w = .error .unassignedOp) ∧
    ((∃ i, decode w = .ok i) ↔ (matchingRows w).length = 1) ∧
    (matchingRows w).length ≤ 1 ∧
    ∀ i, decode w = .ok i → (matchingRows w).map OpcodeRow.mnemonic = [mnemonicOf i]

/-! ## The life of a command -/

/-- When the block moves next, BUSY is 1 and CMD decodes to `i`, the step is `exec i` at that state, its turn taken off the
schedule. CMD is the word the block runs: nothing is fetched (R80, R112). That with no turn scheduled the block completes
next, and that a turn is taken off a schedule, is the model's choice (notes/assumptions/3.md). -/
def Obligations.StepRunsDecodedCommand : Prop :=
  ∀ (s : State) (i : Instr), s.busy = true → decode s.cmd = .ok i →
    (s.schedule = [] → step s = exec i s) ∧
    ∀ rest, s.schedule = .block :: rest → step s = exec i { s with schedule := rest }

/-- R110: a CMD write while idle accepts any word; while busy it is dropped with ACCERR. -/
def Obligations.CmdWriteAcceptsWord : Prop :=
  ∀ (s : State) (w : Word),
    (s.busy = false → hostWrite 0x00C#12 w s =
      .next { s with cmd := w, busy := true, done := false, err := false, code := .clear }) ∧
    (s.busy = true → hostWrite 0x00C#12 w s = .next { s with accErr := true })

/-- An illegal word is accepted like any other and aborts with code 1 and no other effect (R97). -/
def Obligations.IllegalWordAborts : Prop :=
  ∀ (s : State) (w : Word), s.busy = false → (∀ i, decode w ≠ .ok i) →
    andThen (hostWrite 0x00C#12 w s) blockStep =
      .next { s with cmd := w, busy := false, done := true, err := true, code := .illegal }

/-- R113: an abort, of a command or of an illegal word, sets ERR and ERRCODE.CODE and changes nothing else; afterwards
STATUS reads BUSY = 0, DONE = 1, ERR = 1 (its bits 2:0 are 110). -/
def Obligations.AbortIsPrecise : Prop :=
  (∀ (i : Instr) (s t : State), s.err = false → exec i s = .next t → t.err = true →
    t = { s with err := true, code := t.code, busy := false, done := true } ∧ t.code ≠ .clear ∧
    (statusWord t).toNat % 8 = 6) ∧
  ∀ s : State, s.busy = true → (∀ i, decode s.cmd ≠ .ok i) → ∃ t, blockStep s = .next t ∧
    t = { s with err := true, code := .illegal, busy := false, done := true } ∧ (statusWord t).toNat % 8 = 6

/-- R114: when no check fails the command executes: no stop, ERR and ERRCODE stay 0, STATUS reads BUSY = 0, DONE = 1,
ERR = 0. The state satisfies the invariant, which is what makes the tables bijections. -/
def Obligations.PassedChecksSucceed : Prop :=
  ∀ (i : Instr) (s : State), Inv s → s.busy = true → (∀ c, ¬ CheckFails i s c) →
    ∃ t, exec i s = .next t ∧ t.err = false ∧ t.code = .clear ∧ (statusWord t).toNat % 8 = 2

/-- R205: exactly one code, that of the first failing check in the order SIZE, ALIAS, NO_KS, NO_TABLE, NOT_PERM (their
numbers rise in that order); ILLEGAL comes before all of them, whatever the state, and a word with OP = 0x10 and bit 13
set is ILLEGAL. -/
def Obligations.FirstFailingCheckGivesCode : Prop :=
  (∀ (i : Instr) (s : State) (c : ErrCode), s.err = false →
    (AbortsWith i s c ↔
      CheckFails i s c ∧ ∀ c', (codeNumber c').toNat < (codeNumber c).toNat → ¬ CheckFails i s c')) ∧
  (∀ (s : State) (w : Word), s.busy = false → (∀ i, decode w ≠ .ok i) →
    andThen (hostWrite 0x00C#12 w s) blockStep =
      .next { s with cmd := w, busy := false, done := true, err := true, code := .illegal }) ∧
  (∀ w : Word, w.toNat % 256 = 0x10 → w.getLsbD 13 = true → ∀ i, decode w ≠ .ok i) ∧
  ([ErrCode.clear, .illegal, .size, .aliasing, .noKs, .noTable, .notPerm].map fun c => (codeNumber c).toNat) =
    [0, 1, 2, 3, 4, 5, 6]

/-- No command writes a register that belongs to the host: CTRL.IE, ACCERR, CMD, SEED, START, WIDTH, HEIGHT, CAP, WSEL,
WIDX; nor what stands outside the block. -/
def Obligations.CommandsKeepHostRegisters : Prop :=
  ∀ (i : Instr) (s t : State), exec i s = .next t →
    t = { s with
      busy := false, done := true, err := t.err, code := t.code
      ksValid := t.ksValid, pValid := t.pValid, qValid := t.qValid
      xs := t.xs, ks := t.ks, p := t.p, q := t.q, buf := t.buf }

/-! ## The commands -/

/-- R118: NOP. Its word is 0x00000000 alone; it completes in every state, whatever N is, and changes nothing but BUSY and
DONE; with IE = 1 its completion raises IRQ. -/
def Obligations.NopOnlyCompletes : Prop :=
  (∀ w, decode w = .ok .nop ↔ w = 0x00000000#32) ∧
  ∀ s : State, exec .nop s = .next { s with busy := false, done := true } ∧
    (s.err = false → ∀ c, ¬ AbortsWith .nop s c) ∧ ∀ t, exec .nop s = .next t → irq t = s.ie

/-- R132: GEN. KS[k] = xs^(k+1)(SEED) for k < 2N, XS the last word emitted (SEED when N = 0), KS_VALID set, nothing else
changed; SIZE is its only abort. -/
def Obligations.GenWritesKeystream : Prop :=
  (∀ w, decode w = .ok .gen ↔ w = 0x00000001#32) ∧
  ∀ s : State,
    (s.N ≤ s.nMax → ∃ t, exec .gen s = .next t ∧
      t = { s with ks := t.ks, xs := xsStep^[2 * s.N] s.seed, ksValid := true, busy := false, done := true } ∧
      ksRange t 0 (2 * s.N) = generate s.seed (2 * s.N) ∧
      (∀ k < 2 * s.N, readKs t k = xsStep^[k + 1] s.seed) ∧ ∀ k, 2 * s.N ≤ k → readKs t k = readKs s k) ∧
    (s.nMax < s.N → AbortsWith .gen s .size)

/-- R143: PBUILD. P[0..N) = build(N, KS[0..N)), P_VALID set, Q_VALID cleared, nothing else changed; it aborts SIZE, then
NO_KS. -/
def Obligations.PbuildBuildsPermutation : Prop :=
  (∀ w, decode w = .ok .pbuild ↔ w = 0x00000002#32) ∧
  ∀ s : State,
    (s.N ≤ s.nMax → s.ksValid = true → ∃ t, exec .pbuild s = .next t ∧
      t = { s with p := t.p, pValid := true, qValid := false, busy := false, done := true } ∧
      tableRange t .P s.N = build s.N (ksRange s 0 s.N) ∧ ∀ i, s.N ≤ i → readP t i = readP s i) ∧
    (s.nMax < s.N → AbortsWith .pbuild s .size) ∧
    (s.N ≤ s.nMax → s.ksValid = false → AbortsWith .pbuild s .noKs)

/-- R152: PINV. Q[P[i]] = i for i < N, Q_VALID set, nothing else changed; it aborts SIZE, then NO_TABLE. That P[0..N) is a
bijection is what P_VALID = 1 says (R49). -/
def Obligations.PinvInvertsPermutation : Prop :=
  (∀ w, decode w = .ok .pinv ↔ w = 0x00000003#32) ∧
  ∀ s : State,
    (s.N ≤ s.nMax → s.pValid = true → IsBijection s .P → ∃ t, exec .pinv s = .next t ∧
      t = { s with q := t.q, qValid := true, busy := false, done := true } ∧
      tableRange t .Q s.N = invert (tableRange s .P s.N) ∧
      (∀ i < s.N, (readQ t (readP s i).toNat).toNat = i) ∧ ∀ j, s.N ≤ j → readQ t j = readQ s j) ∧
    (s.nMax < s.N → AbortsWith .pinv s .size) ∧
    (s.N ≤ s.nMax → s.pValid = false → AbortsWith .pinv s .noTable)

/-- R154 and R155: PCHK. On a bijection it sets P_VALID and leaves everything else, Q_VALID too; it aborts SIZE, then
NOT_PERM, and then P_VALID was 0; with P_VALID = 1 already it succeeds. -/
def Obligations.PchkChecksPermutation : Prop :=
  (∀ w, decode w = .ok .pchk ↔ w = 0x00000004#32) ∧
  ∀ s : State,
    (s.N ≤ s.nMax → IsBijection s .P → exec .pchk s = .next { s with pValid := true, busy := false, done := true }) ∧
    (s.nMax < s.N → AbortsWith .pchk s .size) ∧
    (s.N ≤ s.nMax → ¬ IsBijection s .P → AbortsWith .pchk s .notPerm) ∧
    (Inv s → s.pValid = true → exec .pchk s = .next { s with busy := false, done := true }) ∧
    (Inv s → s.err = false → AbortsWith .pchk s .notPerm → s.pValid = false)

/-- R162: SCAT. BUF[dst][T[i]] = BUF[src][i] for i < N, T the table selected; nothing else changes. It aborts SIZE, ALIAS,
NO_TABLE. That the table is a bijection is what its valid bit says (R49). -/
def Obligations.ScatScattersBuffer : Prop :=
  ∀ (s : State) (a b : BufId) (tb : Table),
    (encode (.scat a b tb)).toNat = 0x10 + 2 ^ 8 * bufNumber a + 2 ^ 10 * bufNumber b + 2 ^ 12 * tableNumber tb ∧
    (s.N ≤ s.nMax → a ≠ b → tableValid s tb = true → IsBijection s tb → ∃ t, exec (.scat a b tb) s = .next t ∧
      t = { s with buf := t.buf, busy := false, done := true } ∧ (∀ c, c ≠ b → t.buf.get c = s.buf.get c) ∧
      bufRange t b s.N = scatter (bufRange s a s.N) (tableRange s tb s.N) ∧
      (∀ i < s.N, readBuf t b (readTable s tb i).toNat = readBuf s a i) ∧
      ∀ j, s.N ≤ j → readBuf t b j = readBuf s b j) ∧
    (s.nMax < s.N → AbortsWith (.scat a b tb) s .size) ∧
    (s.N ≤ s.nMax → AbortsWith (.scat a a tb) s .aliasing) ∧
    (s.N ≤ s.nMax → a ≠ b → tableValid s tb = false → AbortsWith (.scat a b tb) s .noTable)

/-- R165: GATH. BUF[dst][i] = BUF[src][T[i]] for i < N, T the table selected; nothing else changes. It aborts SIZE, ALIAS,
NO_TABLE. -/
def Obligations.GathGathersBuffer : Prop :=
  ∀ (s : State) (a b : BufId) (tb : Table),
    (encode (.gath a b tb)).toNat = 0x11 + 2 ^ 8 * bufNumber a + 2 ^ 10 * bufNumber b + 2 ^ 12 * tableNumber tb ∧
    (s.N ≤ s.nMax → a ≠ b → tableValid s tb = true → IsBijection s tb → ∃ t, exec (.gath a b tb) s = .next t ∧
      t = { s with buf := t.buf, busy := false, done := true } ∧ (∀ c, c ≠ b → t.buf.get c = s.buf.get c) ∧
      bufRange t b s.N = unscatter (bufRange s a s.N) (tableRange s tb s.N) ∧
      (∀ i < s.N, readBuf t b i = readBuf s a (readTable s tb i).toNat) ∧
      ∀ j, s.N ≤ j → readBuf t b j = readBuf s b j) ∧
    (s.nMax < s.N → AbortsWith (.gath a b tb) s .size) ∧
    (s.N ≤ s.nMax → AbortsWith (.gath a a tb) s .aliasing) ∧
    (s.N ≤ s.nMax → a ≠ b → tableValid s tb = false → AbortsWith (.gath a b tb) s .noTable)

/-- R172: CFWD. BUF[dst][0..N) = forward(BUF[src][0..N), KS[N..2N), START), each lane chained to the ciphertext pixel before;
nothing else changes. It aborts SIZE, ALIAS, NO_KS. -/
def Obligations.CfwdChainsForward : Prop :=
  ∀ (s : State) (a b : BufId),
    (encode (.cfwd a b)).toNat = 0x20 + 2 ^ 8 * bufNumber a + 2 ^ 10 * bufNumber b ∧
    (s.N ≤ s.nMax → a ≠ b → s.ksValid = true → ∃ t, exec (.cfwd a b) s = .next t ∧
      t = { s with buf := t.buf, busy := false, done := true } ∧ (∀ c, c ≠ b → t.buf.get c = s.buf.get c) ∧
      bufRange t b s.N = forward (bufRange s a s.N) (ksRange s s.N s.N) s.start ∧
      (∀ i < s.N, readBuf t b i =
        mixPixel (if i = 0 then startOctets s.start else readBuf t b (i - 1)) (readBuf s a i) (readKs s (s.N + i))) ∧
      ∀ j, s.N ≤ j → readBuf t b j = readBuf s b j) ∧
    (s.nMax < s.N → AbortsWith (.cfwd a b) s .size) ∧
    (s.N ≤ s.nMax → AbortsWith (.cfwd a a) s .aliasing) ∧
    (s.N ≤ s.nMax → a ≠ b → s.ksValid = false → AbortsWith (.cfwd a b) s .noKs)

/-- R177: CREV. BUF[dst][0..N) = reverse(BUF[src][0..N), KS[N..2N), START), each lane chained to the INPUT pixel before;
nothing else changes. It aborts SIZE, ALIAS, NO_KS. -/
def Obligations.CrevChainsReverse : Prop :=
  ∀ (s : State) (a b : BufId),
    (encode (.crev a b)).toNat = 0x21 + 2 ^ 8 * bufNumber a + 2 ^ 10 * bufNumber b ∧
    (s.N ≤ s.nMax → a ≠ b → s.ksValid = true → ∃ t, exec (.crev a b) s = .next t ∧
      t = { s with buf := t.buf, busy := false, done := true } ∧ (∀ c, c ≠ b → t.buf.get c = s.buf.get c) ∧
      bufRange t b s.N = reverse (bufRange s a s.N) (ksRange s s.N s.N) s.start ∧
      (∀ i < s.N, readBuf t b i =
        mixPixel (if i = 0 then startOctets s.start else readBuf s a (i - 1)) (readBuf s a i) (readKs s (s.N + i))) ∧
      ∀ j, s.N ≤ j → readBuf t b j = readBuf s b j) ∧
    (s.nMax < s.N → AbortsWith (.crev a b) s .size) ∧
    (s.N ≤ s.nMax → AbortsWith (.crev a a) s .aliasing) ∧
    (s.N ≤ s.nMax → a ≠ b → s.ksValid = false → AbortsWith (.crev a b) s .noKs)

/-- R190: ENC. KS, XS, P and BUF[dst] hold what the composition gives, KS_VALID and P_VALID are set, Q_VALID is cleared,
nothing else changes. It aborts SIZE, then ALIAS, and needs no valid bit. -/
def Obligations.EncEncryptsImage : Prop :=
  ∀ (s : State) (a b : BufId),
    (encode (.enc a b)).toNat = 0x30 + 2 ^ 8 * bufNumber a + 2 ^ 10 * bufNumber b ∧
    (s.N ≤ s.nMax → a ≠ b → ∃ t, exec (.enc a b) s = .next t ∧
      t = { s with
        ks := t.ks, xs := xsStep^[2 * s.N] s.seed, p := t.p, buf := t.buf
        ksValid := true, pValid := true, qValid := false, busy := false, done := true } ∧
      ksRange t 0 (2 * s.N) = generate s.seed (2 * s.N) ∧ (∀ k, 2 * s.N ≤ k → readKs t k = readKs s k) ∧
      tableRange t .P s.N = build s.N (ksRange t 0 s.N) ∧ (∀ i, s.N ≤ i → readP t i = readP s i) ∧
      bufRange t b s.N = forward (scatter (bufRange s a s.N) (tableRange t .P s.N)) (ksRange t s.N s.N) s.start ∧
      (∀ j, s.N ≤ j → readBuf t b j = readBuf s b j) ∧ ∀ c, c ≠ b → t.buf.get c = s.buf.get c) ∧
    (s.nMax < s.N → AbortsWith (.enc a b) s .size) ∧
    (s.N ≤ s.nMax → AbortsWith (.enc a a) s .aliasing)

/-- R192: DEC. KS, XS, P, Q and BUF[dst] hold what the composition gives, reverse chain first and then the scatter by Q; all
three valid bits are set, nothing else changes. It aborts SIZE, then ALIAS. -/
def Obligations.DecDecryptsImage : Prop :=
  ∀ (s : State) (a b : BufId),
    (encode (.dec a b)).toNat = 0x31 + 2 ^ 8 * bufNumber a + 2 ^ 10 * bufNumber b ∧
    (s.N ≤ s.nMax → a ≠ b → ∃ t, exec (.dec a b) s = .next t ∧
      t = { s with
        ks := t.ks, xs := xsStep^[2 * s.N] s.seed, p := t.p, q := t.q, buf := t.buf
        ksValid := true, pValid := true, qValid := true, busy := false, done := true } ∧
      ksRange t 0 (2 * s.N) = generate s.seed (2 * s.N) ∧ (∀ k, 2 * s.N ≤ k → readKs t k = readKs s k) ∧
      tableRange t .P s.N = build s.N (ksRange t 0 s.N) ∧ (∀ i, s.N ≤ i → readP t i = readP s i) ∧
      tableRange t .Q s.N = invert (tableRange t .P s.N) ∧ (∀ i, s.N ≤ i → readQ t i = readQ s i) ∧
      bufRange t b s.N = scatter (reverse (bufRange s a s.N) (ksRange t s.N s.N) s.start) (tableRange t .Q s.N) ∧
      (∀ j, s.N ≤ j → readBuf t b j = readBuf s b j) ∧ ∀ c, c ≠ b → t.buf.get c = s.buf.get c) ∧
    (s.nMax < s.N → AbortsWith (.dec a b) s .size) ∧
    (s.N ≤ s.nMax → AbortsWith (.dec a a) s .aliasing)

/-- R116: with N = 0 every command whose checks pass completes, stores into no memory, and still performs its register
effects. -/
def Obligations.EmptyImageCommands : Prop :=
  ∀ s : State, s.N = 0 →
    exec .nop s = .next { s with busy := false, done := true } ∧
    exec .gen s = .next { s with xs := s.seed, ksValid := true, busy := false, done := true } ∧
    (s.ksValid = true →
      exec .pbuild s = .next { s with pValid := true, qValid := false, busy := false, done := true }) ∧
    (s.pValid = true → exec .pinv s = .next { s with qValid := true, busy := false, done := true }) ∧
    exec .pchk s = .next { s with pValid := true, busy := false, done := true } ∧
    ∀ a b, a ≠ b →
      (∀ tb, tableValid s tb = true →
        exec (.scat a b tb) s = .next { s with busy := false, done := true } ∧
        exec (.gath a b tb) s = .next { s with busy := false, done := true }) ∧
      (s.ksValid = true →
        exec (.cfwd a b) s = .next { s with busy := false, done := true } ∧
        exec (.crev a b) s = .next { s with busy := false, done := true }) ∧
      exec (.enc a b) s = .next { s with
        xs := s.seed, ksValid := true, pValid := true, qValid := false, busy := false, done := true } ∧
      exec (.dec a b) s = .next { s with
        xs := s.seed, ksValid := true, pValid := true, qValid := true, busy := false, done := true }

/-- The one fault of the model: a command stops only where it is PINV, SCAT or GATH, all its checks pass, and a word of
the table it reads is no index below N_MAX. This stop is the model's own choice (notes/assumptions/6.md), for states the
spec's rules exclude. -/
def Obligations.FaultOnlyOutsideTable : Prop :=
  ∀ (i : Instr) (s : State),
    (∀ r, exec i s ≠ .refused r) ∧
    (exec i s = .fault .noSuchElement ↔ (∀ c, ¬ CheckFails i s c) ∧
      ∃ tb, ((i = .pinv ∧ tb = .P) ∨ ∃ a b, i = .scat a b tb ∨ i = .gath a b tb) ∧
        ∃ k < s.N, s.nMax ≤ (readTable s tb k).toNat)

/-! ## The document's functions -/

/-- R131 and R134: generate(seed, count) is the list of xs^1(seed) to xs^count(seed), and a shorter one is the beginning of
a longer one. -/
def Obligations.GenerateIteratesUpdate : Prop :=
  ∀ (seed : Word) (n : Nat),
    generate seed n = (List.range n).map (fun k => xsStep^[k + 1] seed) ∧
    ∀ m ≤ n, (generate seed n).take m = generate seed m

/-- R133: the degenerate key. xs(0) = 0, the stream of seed 0 is zero words, and GEN with SEED = 0 succeeds. -/
def Obligations.ZeroSeedGivesZeroStream : Prop :=
  xsStep 0#32 = 0#32 ∧ (∀ n, generate 0#32 n = List.replicate n 0#32) ∧
  ∀ s : State, s.seed = 0#32 → s.N ≤ s.nMax →
    ∃ t, exec .gen s = .next t ∧ t.ksValid = true ∧ t.err = s.err ∧ t.code = s.code ∧
      ksRange t 0 (2 * s.N) = List.replicate (2 * s.N) 0#32

/-- R135: xs is a bijection on words with xs(0) = 0, so a nonzero seed never emits zero. -/
def Obligations.XsIsBijection : Prop :=
  Function.Bijective xsStep ∧ xsStep 0#32 = 0#32 ∧ ∀ seed ≠ 0#32, ∀ n, 0#32 ∉ generate seed n

/-- R144: build(N, draws) is a bijection on [0, N) for all N and draws; a successful PBUILD leaves P_VALID = 1 with what it
says. The draws all zero turn the identity by one place (R143, corner case SEED = 0). -/
def Obligations.BuildIsBijection : Prop :=
  (∀ (n : Nat) (draws : List Word), (build n draws).Perm (List.range n)) ∧
  (∀ s t : State, s.err = false → exec .pbuild s = .next t → t.err = false →
    t.pValid = true ∧ t.N ≤ t.nMax ∧ IsBijection t .P) ∧
  ∀ n, build (n + 2) (List.replicate (n + 2) 0#32) = (List.range (n + 1)).map (· + 1) ++ [0]

/-- R145: draws[0] is never read by build, so KS[0] has no influence on P: two states that differ only in KS[0] end PBUILD
with the same P and the same status. -/
def Obligations.BuildIgnoresFirstDraw : Prop :=
  (∀ (n : Nat) (x y : Word) (draws : List Word), build n (x :: draws) = build n (y :: draws)) ∧
  ∀ (s s' : State) (m : Memory Word), s' = { s with ks := m } → (∀ k, k ≠ 0 → readKs s' k = readKs s k) →
    ∃ t, exec .pbuild s = .next t ∧ exec .pbuild s' = .next { t with ks := m }

/-- R153: isPerm(P, N) is true exactly where every value in [0, N) occurs once among the N words, that is where every word
is below N and no two are equal. -/
def Obligations.IsPermMeansBijection : Prop :=
  ∀ (P : List Nat) (n : Nat), P.length = n →
    (isPerm P n = true ↔ ∀ v < n, P.count v = 1) ∧
    (isPerm P n = true ↔ (∀ v ∈ P, v < n) ∧ P.Nodup) ∧
    (isPerm P n = true ↔ P.Perm (List.range n)) ∧ isPerm [] 0 = true

/-- R151 and R156: for a bijection P and Q = invert(P): Q[P[i]] = i, P[Q[j]] = j, Q is a bijection, invert(Q) = P. -/
def Obligations.InvertIsInverse : Prop :=
  ∀ (P : List Nat) (n : Nat), P.Perm (List.range n) →
    (∀ i < n, ∃ j < n, P[i]? = some j ∧ (invert P)[j]? = some i) ∧
    (∀ j < n, ∃ i < n, (invert P)[j]? = some i ∧ P[i]? = some j) ∧
    (invert P).Perm (List.range n) ∧ invert (invert P) = P

/-- R161 and R166: scatter puts src[i] at T[i], unscatter takes src[T[i]], and the three round trips hold for every pixel
sequence and every bijection. -/
def Obligations.ScatterRoundTrips : Prop :=
  ∀ (x : List Pixel) (P : List Nat), P.Perm (List.range x.length) →
    (scatter x P).length = x.length ∧ (unscatter x P).length = x.length ∧
    (∀ i j : Nat, P[i]? = some j → (scatter x P)[j]? = x[i]? ∧ (unscatter x P)[i]? = x[j]?) ∧
    scatter (unscatter x P) P = x ∧ unscatter (scatter x P) P = x ∧ scatter (scatter x P) (invert P) = x

/-- R167: unscatter by P is scatter by invert(P); with both valid bits 1, GATH by one table and SCAT by the other write the
same pixels. -/
def Obligations.UnscatterIsScatterByInverse : Prop :=
  (∀ (x : List Pixel) (P : List Nat), P.Perm (List.range x.length) → unscatter x P = scatter x (invert P)) ∧
  ∀ (s : State) (a b : BufId), Inv s → s.pValid = true → s.qValid = true → a ≠ b →
    ∃ t u t' u', exec (.gath a b .P) s = .next t ∧ exec (.scat a b .Q) s = .next u ∧
      exec (.gath a b .Q) s = .next t' ∧ exec (.scat a b .P) s = .next u' ∧
      bufRange t b s.N = bufRange u b s.N ∧ bufRange t' b s.N = bufRange u' b s.N

/-- R170 and R173: the octets of the start value, and the low 8 bits of the exclusive or as the lane's value; bits 31:24 of
START and bits 31:8 of a keystream word take part in nothing. -/
def Obligations.OctetsAndLaneWidth : Prop :=
  (∀ s : Word, startOctets s =
    ⟨BitVec.ofNat 8 (s.toNat % 256), BitVec.ofNat 8 (s.toNat / 256 % 256), BitVec.ofNat 8 (s.toNat / 65536 % 256)⟩) ∧
  (∀ (x : List Pixel) (ks ks' : List Word) (s s' : Word), s.toNat % 2 ^ 24 = s'.toNat % 2 ^ 24 →
    ks.map lo8 = ks'.map lo8 → forward x ks s = forward x ks' s' ∧ reverse x ks s = reverse x ks' s') ∧
  ∀ (a b : Byte) (w : Word), mixLane a b w = a ^^^ b ^^^ lo8 w

/-- Lanes do not mix: a lane of the result of forward or reverse depends only on that lane of the input, on the low bytes
of the keystream words, the same for all three lanes, and on that lane's octet (R174). -/
def Obligations.LanesAreIndependent : Prop :=
  ∀ lane ∈ [Pixel.c0, Pixel.c1, Pixel.c2], ∀ (x y : List Pixel) (ks : List Word) (s s' : Word),
    x.map lane = y.map lane → lane (startOctets s) = lane (startOctets s') →
    (forward x ks s).map lane = (forward y ks s').map lane ∧ (reverse x ks s).map lane = (reverse y ks s').map lane

/-- R175: the closed form of forward, and its consequence that a change to plain[j] changes every cipher[i] with i >= j. -/
def Obligations.ForwardClosedForm : Prop :=
  ∀ (x : List Pixel) (ks : List Word) (s : Word), ks.length = x.length →
    (forward x ks s).length = x.length ∧
    (∀ lane ∈ [Pixel.c0, Pixel.c1, Pixel.c2], ∀ i c, (forward x ks s)[i]? = some c →
      lane c = ((x.zip ks).take (i + 1)).foldl (fun acc e => acc ^^^ (lane e.1 ^^^ lo8 e.2)) (lane (startOctets s))) ∧
    ∀ j y, j < x.length → x[j]? ≠ some y → ∀ i, i < x.length →
      ((forward (x.set j y) ks s)[i]? = (forward x ks s)[i]? ↔ i < j)

/-- R178: reverse undoes forward and forward undoes reverse, for every sequence of words and every start value. -/
def Obligations.ChainRoundTrip : Prop :=
  ∀ (x : List Pixel) (ks : List Word) (s : Word), ks.length = x.length →
    reverse (forward x ks s) ks s = x ∧ forward (reverse x ks s) ks s = x

/-- The locality of reverse: cipher[j] reaches only the results j and j+1, ks[j] only the result j, the start value only the
result 0 (R179). -/
def Obligations.ReverseIsLocal : Prop :=
  ∀ (x : List Pixel) (ks : List Word) (s : Word) (i j : Nat),
    (∀ y, i ≠ j → i ≠ j + 1 → (reverse (x.set j y) ks s)[i]? = (reverse x ks s)[i]?) ∧
    (∀ w, i ≠ j → (reverse x (ks.set j w) s)[i]? = (reverse x ks s)[i]?) ∧
    ∀ s', i ≠ 0 → (reverse x ks s')[i]? = (reverse x ks s)[i]?

/-- R180: the forward image of an all-zero image, and exactly when it is all zero. -/
def Obligations.ZeroImageCondition : Prop :=
  ∀ (ks : List Word) (s : Word), ks ≠ [] →
    (∀ lane ∈ [Pixel.c0, Pixel.c1, Pixel.c2], ∀ i c,
      (forward (List.replicate ks.length ⟨0#8, 0#8, 0#8⟩) ks s)[i]? = some c →
      lane c = (ks.take (i + 1)).foldl (fun acc k => acc ^^^ lo8 k) (lane (startOctets s))) ∧
    (forward (List.replicate ks.length ⟨0#8, 0#8, 0#8⟩) ks s = List.replicate ks.length ⟨0#8, 0#8, 0#8⟩ ↔
      (∀ k, ks[0]? = some k → startOctets s = ⟨lo8 k, lo8 k, lo8 k⟩) ∧ ∀ k ∈ ks.drop 1, lo8 k = 0#8)

/-! ## The compositions -/

/-- R191: ENC and GEN; PBUILD; SCAT by P; CFWD leave KS, XS, P, the destination buffer and the valid bits alike; the
decomposition also leaves the scattered plaintext in its third buffer, where ENC leaves what was there. -/
def Obligations.EncEqualsItsDecomposition : Prop :=
  ∀ (s : State) (a b c : BufId), s.busy = false → s.N ≤ s.nMax → a ≠ b → c ≠ a → c ≠ b →
    ∃ t u, commands [.gen, .pbuild, .scat a c .P, .cfwd c b] s = .next t ∧ command (.enc a b) s = .next u ∧
      (∀ k, readKs t k = readKs u k) ∧ t.xs = u.xs ∧ (∀ i, readP t i = readP u i) ∧
      (∀ i, readBuf t b i = readBuf u b i) ∧
      t.ksValid = u.ksValid ∧ t.pValid = u.pValid ∧ t.qValid = u.qValid ∧ t.err = false ∧ u.err = false ∧
      bufRange t c s.N = scatter (bufRange s a s.N) (tableRange t .P s.N) ∧ ∀ i, readBuf u c i = readBuf s c i

/-- R193: DEC and GEN; PBUILD; PINV; CREV; SCAT by Q leave KS, XS, P, Q, the destination buffer and the valid bits alike; the
decomposition also overwrites its third buffer, where DEC leaves what was there. -/
def Obligations.DecEqualsItsDecomposition : Prop :=
  ∀ (s : State) (a b c : BufId), s.busy = false → s.N ≤ s.nMax → a ≠ b → c ≠ a → c ≠ b →
    ∃ t u, commands [.gen, .pbuild, .pinv, .crev a c, .scat c b .Q] s = .next t ∧ command (.dec a b) s = .next u ∧
      (∀ k, readKs t k = readKs u k) ∧ t.xs = u.xs ∧ (∀ i, readP t i = readP u i) ∧ (∀ i, readQ t i = readQ u i) ∧
      (∀ i, readBuf t b i = readBuf u b i) ∧
      t.ksValid = u.ksValid ∧ t.pValid = u.pValid ∧ t.qValid = u.qValid ∧ t.err = false ∧ u.err = false ∧
      bufRange t c s.N = reverse (bufRange s a s.N) (ksRange t s.N s.N) s.start ∧ ∀ i, readBuf u c i = readBuf s c i

/-- R194: ENC from a to b, then DEC from b to c, gives back BUF[a][0..N) as it was before, whatever the host did in between
that left SEED, START, WIDTH, HEIGHT and BUF[b][0..N) as they were. -/
def Obligations.DecryptUndoesEncrypt : Prop :=
  ∀ (s : State) (a b c : BufId), s.busy = false → s.N ≤ s.nMax → a ≠ b → b ≠ c →
    ∃ t, command (.enc a b) s = .next t ∧
      ∀ t' : State, t'.busy = false → t'.seed = s.seed → t'.start = s.start → t'.width = s.width →
        t'.height = s.height → t'.cap = s.cap → bufRange t' b s.N = bufRange t b s.N →
        ∃ u, command (.dec b c) t' = .next u ∧ u.err = false ∧ bufRange u c s.N = bufRange s a s.N

/-- P_VALID does not say which seed built P: a SEED write and a GEN leave the old P in place, and its valid bit (R240). -/
def Obligations.StalePermutationStaysValid : Prop :=
  ∀ (s : State) (v : Word), s.busy = false → s.N ≤ s.nMax → s.pValid = true →
    ∃ t, andThen (hostWrite 0x010#12 v s) (command .gen) = .next t ∧ t.seed = v ∧ t.ksValid = true ∧
      ksRange t 0 (2 * s.N) = generate v (2 * s.N) ∧ t.pValid = true ∧ t.qValid = s.qValid ∧
      (∀ i, readP t i = readP s i) ∧ ∀ i, readQ t i = readQ s i

/-! ## The host's accesses -/

/-- What is dropped whatever BUSY is. A narrow or misaligned access (R61), an access to an unmapped offset (R63), and a write
to ERRCODE, NPIX, CAP or XS (R69) set ACCERR and change nothing else; a dropped read returns 0; a write to CTRL, STATUS or
WSEL is not dropped (R69). That a narrow or misaligned access at 0x034 to 0x037 leaves WIDX as it was with AINC = 1 too is
the model's reading of R61 before R65, deduced and unsafe (notes/assumptions/9.md). -/
def Obligations.DroppedAccesses : Prop :=
  ∀ s : State,
    (∀ size off, (size ≠ .word ∨ off.toNat % 4 ≠ 0 ∨ 0x038 ≤ off.toNat) →
      hostStep (.read size off) s = .next { s with accErr := true, rdata := 0#32 } ∧
      ∀ v, hostStep (.write size off v) s = .next { s with accErr := true }) ∧
    (∀ off ∈ [0x008#12, 0x020#12, 0x024#12, 0x028#12], ∀ v, hostWrite off v s = .next { s with accErr := true }) ∧
    ∀ off ∈ [0x000#12, 0x004#12, 0x02C#12], ∀ v t, s.busy = false → hostWrite off v s = .next t →
      (s.accErr = false → t.accErr = false)

/-- A read of any mapped register but WDATA, at any time, returns the register and changes nothing: the values of R22 to
R39 with the field layouts the spec gives (BUSY reads 1 while a command is outstanding, every other field what its
acceptance left: notes/assumptions/8.md). -/
def Obligations.RegisterReadValues : Prop :=
  ∀ s : State,
    (∀ e ∈ [(0x00C#12, s.cmd), (0x010#12, s.seed), (0x014#12, s.start), (0x018#12, s.width), (0x01C#12, s.height),
        (0x024#12, s.cap), (0x028#12, s.xs), (0x030#12, s.widx)], hostRead e.1 s = .next { s with rdata := e.2 }) ∧
    ∀ e ∈ [(0x000#12, s.ie.toNat),
        (0x004#12, s.busy.toNat + 2 * s.done.toNat + 4 * s.err.toNat + 8 * s.accErr.toNat + 16 * s.ksValid.toNat +
          32 * s.pValid.toNat + 64 * s.qValid.toNat),
        (0x008#12, (codeNumber s.code).toNat), (0x020#12, min (s.width.toNat * s.height.toNat) (2 ^ 32 - 1)),
        (0x02C#12, s.win.toNat + 256 * s.ainc.toNat)],
      ∃ t, hostRead e.1 s = .next t ∧ t = { s with rdata := t.rdata } ∧ t.rdata.toNat = e.2

/-- R31: CAP is constant. It holds N_MAX from reset on, with 1 <= N_MAX <= 2^31, and no step changes it. -/
def Obligations.CapIsConstant : Prop :=
  State.reset.nMax = Config.nMax ∧ 1 ≤ Config.nMax ∧ Config.nMax ≤ 2 ^ 31 ∧
  (∀ s t : State, step s = .next t → t.cap = s.cap) ∧
  ∀ s : State, hostRead 0x024#12 s = .next { s with rdata := s.cap }

/-- R22, R23, R206: writes to CTRL and STATUS, which take effect also while BUSY = 1. A W1C write that comes in the cycle of
a completion counts as after it: DONE ends 0. -/
def Obligations.ControlAndStatusWrites : Prop :=
  (∀ (s : State) (v : Word),
    hostWrite 0x000#12 v s = .next { s with ie := v.getLsbD 0 } ∧
    hostWrite 0x004#12 v s = .next { s with
      done := if v.getLsbD 1 then false else s.done
      err := if v.getLsbD 2 then false else s.err
      accErr := if v.getLsbD 3 then false else s.accErr }) ∧
  ∀ (s : State) (v : Word) (i : Instr), Inv s → Completes s i → v.getLsbD 1 = true →
    ∃ t u, step s = .next t ∧ t.done = true ∧ hostWrite 0x004#12 v t = .next u ∧ u.done = false

/-- R28, R29, R30, R38, R39: what a write to SEED, START, WIDTH, HEIGHT, WSEL and WIDX does while BUSY = 0, also where the
value written is the old one. -/
def Obligations.ConfigurationWrites : Prop :=
  ∀ (s : State) (v : Word), s.busy = false →
    hostWrite 0x010#12 v s = .next { s with seed := v, ksValid := false } ∧
    hostWrite 0x014#12 v s = .next { s with start := v } ∧
    hostWrite 0x018#12 v s = .next { s with width := v, ksValid := false, pValid := false, qValid := false } ∧
    hostWrite 0x01C#12 v s = .next { s with height := v, ksValid := false, pValid := false, qValid := false } ∧
    (∃ t, hostWrite 0x02C#12 v s = .next t ∧ t = { s with win := t.win, ainc := v.getLsbD 8 } ∧
      t.win.toNat = v.toNat % 8) ∧
    hostWrite 0x030#12 v s = .next { s with widx := v }

/-- R62, R64, R65: HostRead of WDATA, case by case; WIDX is incremented after every read that is not dropped for BUSY, when
AINC = 1. -/
def Obligations.WdataReadFollowsPseudocode : Prop :=
  ∀ s : State,
    (s.busy = true → hostRead 0x034#12 s = .next { s with accErr := true, rdata := 0#32 }) ∧
    (s.busy = false →
      (s.win = 7#3 ∨ (if s.win = 4#3 then 2 * s.nMax else s.nMax) ≤ s.widx.toNat →
        hostRead 0x034#12 s = .next { s with accErr := true, rdata := 0#32, widx := nextWidx s }) ∧
      (∀ e ∈ [(0#3, BufId.b0), (1#3, .b1), (2#3, .b2), (3#3, .b3)], s.win = e.1 → s.widx.toNat < s.nMax →
        ∃ t p, p = readBuf s e.2 s.widx.toNat ∧ hostRead 0x034#12 s = .next t ∧
          t = { s with rdata := t.rdata, widx := nextWidx s } ∧
          t.rdata.toNat = p.c0.toNat + 2 ^ 8 * p.c1.toNat + 2 ^ 16 * p.c2.toNat) ∧
      (s.win = 4#3 → s.widx.toNat < 2 * s.nMax →
        hostRead 0x034#12 s = .next { s with rdata := readKs s s.widx.toNat, widx := nextWidx s }) ∧
      (s.win = 5#3 → s.widx.toNat < s.nMax →
        hostRead 0x034#12 s = .next { s with rdata := readP s s.widx.toNat, widx := nextWidx s }) ∧
      (s.win = 6#3 → s.widx.toNat < s.nMax →
        hostRead 0x034#12 s = .next { s with rdata := readQ s s.widx.toNat, widx := nextWidx s }))

/-- R66, R67: HostWrite of WDATA, case by case; a store into P clears P_VALID and Q_VALID, KS and Q are read-only to the
host, and every element but the one at WIDX reads as before. -/
def Obligations.WdataWriteFollowsPseudocode : Prop :=
  ∀ (s : State) (v : Word),
    (s.busy = true → hostWrite 0x034#12 v s = .next { s with accErr := true }) ∧
    (s.busy = false →
      (s.win = 4#3 ∨ s.win = 6#3 ∨ s.win = 7#3 ∨ s.nMax ≤ s.widx.toNat →
        hostWrite 0x034#12 v s = .next { s with accErr := true, widx := nextWidx s }) ∧
      (∀ e ∈ [(0#3, BufId.b0), (1#3, .b1), (2#3, .b2), (3#3, .b3)], s.win = e.1 → s.widx.toNat < s.nMax →
        ∃ t, hostWrite 0x034#12 v s = .next t ∧ t = { s with buf := t.buf, widx := nextWidx s } ∧
          readBuf t e.2 s.widx.toNat = ⟨BitVec.ofNat 8 (v.toNat % 256), BitVec.ofNat 8 (v.toNat / 256 % 256),
            BitVec.ofNat 8 (v.toNat / 65536 % 256)⟩ ∧
          ∀ b j, (b ≠ e.2 ∨ j ≠ s.widx.toNat) → readBuf t b j = readBuf s b j) ∧
      (s.win = 5#3 → s.widx.toNat < s.nMax →
        ∃ t, hostWrite 0x034#12 v s = .next t ∧
          t = { s with p := t.p, pValid := false, qValid := false, widx := nextWidx s } ∧
          readP t s.widx.toNat = v ∧ ∀ j, j ≠ s.widx.toNat → readP t j = readP s j))

/-- R70: a pixel travels as one word, lane 0 lowest, bits 31:24 read 0 and are ignored on write. -/
def Obligations.PixelWordLayout : Prop :=
  (∀ p : Pixel, (pixelToWord p).toNat = p.c0.toNat + 2 ^ 8 * p.c1.toNat + 2 ^ 16 * p.c2.toNat ∧
    wordToPixel (pixelToWord p) = p) ∧
  ∀ w : Word, (pixelToWord (wordToPixel w)).toNat = w.toNat % 2 ^ 24 ∧ wordToPixel w = startOctets w

/-- R68: accesses while BUSY = 1. Reads but of WDATA return the register, CTRL and STATUS writes take effect, every other
write and a WDATA read is dropped; so (R115) nothing a command reads changes before its completion. -/
def Obligations.BusyAccesses : Prop :=
  ∀ s : State, s.busy = true →
    (∀ off ∈ [0x008#12, 0x00C#12, 0x010#12, 0x014#12, 0x018#12, 0x01C#12, 0x020#12, 0x024#12, 0x028#12, 0x02C#12,
        0x030#12, 0x034#12], ∀ v, hostWrite off v s = .next { s with accErr := true }) ∧
    hostRead 0x034#12 s = .next { s with accErr := true, rdata := 0#32 } ∧
    (∀ v, ∃ t, hostWrite 0x000#12 v s = .next t ∧ t.ie = v.getLsbD 0 ∧ t.accErr = s.accErr) ∧
    ∀ op t, hostStep op s = .next t →
      t = { s with ie := t.ie, done := t.done, err := t.err, accErr := t.accErr, rdata := t.rdata }

/-- The aperture: 4096 bytes at BASE, which is 4 KiB aligned; an address in it reaches its offset, no other address reaches
the block (R11, R60, R75). -/
def Obligations.ApertureAtBase : Prop :=
  Config.base % 4096 = 0 ∧
  (∀ off : Offset, offsetAt (Config.base + off.toNat) = some off) ∧
  ∀ addr, addr < Config.base ∨ Config.base + 4096 ≤ addr → offsetAt addr = none

/-! ## Interrupt and reset -/

/-- R210: IRQ is CTRL.IE & STATUS.DONE. A completion raises it while IE = 1, so does an IE write while DONE = 1, and nothing
else does; a W1C of DONE, an acceptance, an IE write of 0 and reset lower it. -/
def Obligations.IrqFollowsDoneAndIe : Prop :=
  (∀ s : State, irq s = (s.ie && s.done)) ∧
  (∀ s t : State, s.busy = true → blockStep s = .next t → irq t = s.ie) ∧
  (∀ (s t : State) (v : Word), v.getLsbD 0 = true → hostWrite 0x000#12 v s = .next t → irq t = s.done) ∧
  (∀ (s t : State) (v : Word), v.getLsbD 0 = false → hostWrite 0x000#12 v s = .next t → irq t = false) ∧
  (∀ (s t : State) (v : Word), v.getLsbD 1 = true → hostWrite 0x004#12 v s = .next t → irq t = false) ∧
  (∀ (s t : State) (w : Word), s.busy = false → hostWrite 0x00C#12 w s = .next t → irq t = false) ∧
  (∀ s t : State, resetStep s = .next t → irq t = false) ∧
  ∀ s t : State, step s = .next t → irq s = false → irq t = true →
    (s.busy = true ∧ t.busy = false ∧ s.ie = true ∧ t.done = true) ∨
    ∃ v rest, s.schedule = .host (.write .word 0x000#12 v) :: rest ∧ s.done = true

/-- R50: RST gives every register its reset value at any time, CAP keeps N_MAX, IRQ is 0; an outstanding command is
cancelled, BUSY and DONE both 0. -/
def Obligations.ResetClearsRegisters : Prop :=
  ∀ s : State, ∃ t, resetStep s = .next t ∧
    t.ie = false ∧ t.busy = false ∧ t.done = false ∧ t.err = false ∧ t.accErr = false ∧
    t.ksValid = false ∧ t.pValid = false ∧ t.qValid = false ∧ t.code = .clear ∧ t.cmd = 0#32 ∧
    t.seed = 0#32 ∧ t.start = 0#32 ∧ t.width = 0#32 ∧ t.height = 0#32 ∧ t.N = 0 ∧ t.xs = 0#32 ∧
    t.win = 0#3 ∧ t.ainc = false ∧ t.widx = 0#32 ∧ t.cap = s.cap ∧ irq t = false

/-- RST leaves nothing that was stored in a memory: every element reads as the draw of that reset, a free
value. That a draw is numbered by the resets before it is the model's choice (notes/assumptions/1.md, 2.md). -/
def Obligations.ResetDrawsMemoriesAnew : Prop :=
  ∀ s : State, ∃ t, resetStep s = .next t ∧ t.epoch ≠ s.epoch ∧
    (∀ i, readKs t i = Config.drawKs (s.epoch + 1) i) ∧ (∀ i, readP t i = Config.drawP (s.epoch + 1) i) ∧
    (∀ i, readQ t i = Config.drawQ (s.epoch + 1) i) ∧ ∀ b i, readBuf t b i = Config.drawBuf (s.epoch + 1) b i

/-! ## The invariant and the whole machine -/

/-- The state after reset satisfies the invariant. -/
def Obligations.ResetStateMeetsInvariant : Prop := Inv State.reset

/-- Every step, whoever moves, keeps the invariant: the valid bits say what R49 says, the memories stay in canonical form
within their capacity, the status bits stay consistent. -/
def Obligations.StepKeepsInvariant : Prop :=
  ∀ s t : State, Inv s → step s = .next t → Inv t

/-- From a state that satisfies the invariant the machine never stops. -/
def Obligations.InvariantStateSteps : Prop := ∀ s : State, Inv s → ∃ t, step s = .next t

/-- An outstanding command always completes or is cancelled by reset: no more host steps than are scheduled can come
before it (R112). -/
def Obligations.OutstandingCommandCompletes : Prop :=
  ∀ s : State, Inv s → s.busy = true →
    ∃ k ≤ s.schedule.length + 1, ∃ t, Host.Core.run Sys2Proof.core k s = .next t ∧ t.busy = false ∧
      ((∀ x ∈ s.schedule, x ≠ Turn.reset) → t.done = true)

/-- Who writes what (R33, R42 to R45): apart from reset, KS and XS change only at the completion of GEN, ENC or DEC, P only
at PBUILD, ENC, DEC or a P window write, Q only at PINV or DEC, a buffer only at a command with it as DST or a write of its
window; commands store only below 2N in KS and below N elsewhere. -/
def Obligations.OnlyNamedWritersStore : Prop :=
  ∀ s t : State, Inv s → step s = .next t → (∀ rest, s.schedule ≠ .reset :: rest) →
    (t.xs ≠ s.xs → ∃ i, Completes s i ∧ (i = .gen ∨ ∃ a b, i = .enc a b ∨ i = .dec a b)) ∧
    (∀ k, readKs t k ≠ readKs s k →
      k < 2 * s.N ∧ ∃ i, Completes s i ∧ (i = .gen ∨ ∃ a b, i = .enc a b ∨ i = .dec a b)) ∧
    (∀ k, readP t k ≠ readP s k →
      (k < s.N ∧ ∃ i, Completes s i ∧ (i = .pbuild ∨ ∃ a b, i = .enc a b ∨ i = .dec a b)) ∨
      (s.busy = false ∧ s.win = 5#3 ∧ k = s.widx.toNat ∧
        ∃ v rest, s.schedule = .host (.write .word 0x034#12 v) :: rest)) ∧
    (∀ k, readQ t k ≠ readQ s k → k < s.N ∧ ∃ i, Completes s i ∧ (i = .pinv ∨ ∃ a b, i = .dec a b)) ∧
    ∀ b k, readBuf t b k ≠ readBuf s b k →
      (k < s.N ∧ ∃ i a tb, Completes s i ∧
        i ∈ [.scat a b tb, .gath a b tb, .cfwd a b, .crev a b, .enc a b, .dec a b]) ∨
      (s.busy = false ∧ (s.win, b) ∈ [(0#3, .b0), (1#3, .b1), (2#3, .b2), (3#3, .b3)] ∧ k = s.widx.toNat ∧
        ∃ v rest, s.schedule = .host (.write .word 0x034#12 v) :: rest)
end

