-- ==== Sys2Proof/Laws/Memory.lean ====
section
/-! SUPPORT. The laws of the internal memories: a read after a write, what a write leaves alone, the canonical form kept by
every operation, and that canonical memories that store the same are equal data (spec/00_scope.md R14). -/

namespace Sys2Proof.Machine

variable {α : Type}

/-! ## Read after write -/

@[simp] theorem Memory.stored_write_same (m : Memory α) (i : Nat) (v : α) : (m.write i v).stored i = some v := by
  induction m with
  | nil => simp [Memory.write, Memory.stored]
  | cons e rest ih =>
    obtain ⟨j, w⟩ := e
    simp only [Memory.write]
    split
    · simp [Memory.stored]
    · split
      · simp [Memory.stored]
      · simp [Memory.stored, *]

theorem Memory.stored_write_other (m : Memory α) {i k : Nat} (v : α) (h : k ≠ i) :
    (m.write i v).stored k = m.stored k := by
  induction m with
  | nil => simp [Memory.write, Memory.stored, h]
  | cons e rest ih =>
    obtain ⟨j, w⟩ := e
    simp only [Memory.write]
    split
    · simp [Memory.stored, h]
    · split
      · next hij => subst hij; simp [Memory.stored, h]
      · simp only [Memory.stored, ih]

theorem Memory.stored_write (m : Memory α) (i k : Nat) (v : α) :
    (m.write i v).stored k = if k = i then some v else m.stored k := by
  by_cases h : k = i
  · subst h; simp
  · simp [h, Memory.stored_write_other m v h]

/-- After writing consecutive elements, each of them holds its value and every other is as before. -/
theorem Memory.stored_writeFrom (m : Memory α) (i k : Nat) (vs : List α) :
    (m.writeFrom i vs).stored k = if i ≤ k ∧ k < i + vs.length then vs[k - i]? else m.stored k := by
  induction vs generalizing m i with
  | nil =>
    have hnot : ¬ (i ≤ k ∧ k < i + ([] : List α).length) := by simp
    rw [if_neg hnot, Memory.writeFrom]
  | cons v vs ih =>
    rw [Memory.writeFrom, ih, Memory.stored_write]
    simp only [List.length_cons]
    by_cases h : k = i
    · subst h; simp
    · by_cases h2 : i + 1 ≤ k ∧ k < i + 1 + vs.length
      · have h3 : i ≤ k ∧ k < i + (vs.length + 1) := by omega
        have h4 : k - i = (k - (i + 1)) + 1 := by omega
        simp [h2, h3, h4]
      · have h3 : ¬ (i ≤ k ∧ k < i + (vs.length + 1)) := by omega
        rw [if_neg h2, if_neg h3, if_neg h]

/-- An index that is not written keeps what is stored there. -/
theorem Memory.stored_writeAll_other (m : Memory α) (l : List (Nat × α)) {k : Nat} (h : k ∉ l.map Prod.fst) :
    (m.writeAll l).stored k = m.stored k := by
  induction l generalizing m with
  | nil => rfl
  | cons e rest ih =>
    simp only [List.map_cons, List.mem_cons, not_or] at h
    rw [Memory.writeAll, ih _ h.2, Memory.stored_write_other _ _ h.1]

/-- Where no index is written twice, each holds the value written to it. -/
theorem Memory.stored_writeAll_mem (m : Memory α) (l : List (Nat × α)) (hn : (l.map Prod.fst).Nodup) {k : Nat} {v : α}
    (h : (k, v) ∈ l) : (m.writeAll l).stored k = some v := by
  induction l generalizing m with
  | nil => simp at h
  | cons e rest ih =>
    obtain ⟨j, w⟩ := e
    simp only [List.map_cons, List.nodup_cons] at hn
    rcases List.mem_cons.mp h with h | h
    · cases h
      rw [Memory.writeAll, Memory.stored_writeAll_other _ _ hn.1, Memory.stored_write_same]
    · exact ih _ hn.2 h

/-! ## The canonical form -/

theorem Memory.wf_nil (n : Nat) : Memory.wf ([] : Memory α) n := by simp [Memory.wf]

theorem Memory.fst_mem_write (m : Memory α) (i : Nat) (v : α) {j : Nat} (h : j ∈ (m.write i v).map Prod.fst) :
    j = i ∨ j ∈ m.map Prod.fst := by
  induction m with
  | nil => simpa [Memory.write] using h
  | cons e rest ih =>
    obtain ⟨k, w⟩ := e
    simp only [Memory.write] at h
    split at h
    · simpa using h
    · split at h
      · next hik => subst hik; simp only [List.map_cons, List.mem_cons] at h ⊢; tauto
      · simp only [List.map_cons, List.mem_cons] at h ⊢
        rcases h with h | h
        · exact .inr (.inl h)
        · exact (ih h).imp id .inr

theorem Memory.rising_write (m : Memory α) (i : Nat) (v : α) (h : (m.map Prod.fst).Pairwise (· < ·)) :
    ((m.write i v).map Prod.fst).Pairwise (· < ·) := by
  induction m with
  | nil => simp [Memory.write]
  | cons e rest ih =>
    obtain ⟨k, w⟩ := e
    simp only [List.map_cons, List.pairwise_cons] at h
    simp only [Memory.write]
    split
    · next hik =>
      simp only [List.map_cons, List.pairwise_cons, List.mem_cons, forall_eq_or_imp]
      exact ⟨⟨hik, fun a ha => lt_trans hik (h.1 a ha)⟩, h.1, h.2⟩
    · split
      · next hik => subst hik; simpa using h
      · next h1 h2 =>
        simp only [List.map_cons, List.pairwise_cons]
        refine ⟨fun a ha => ?_, ih h.2⟩
        rcases Memory.fst_mem_write rest i v ha with rfl | ha
        · omega
        · exact h.1 a ha

/-- A write of an element the memory has keeps the canonical form. -/
theorem Memory.wf_write {m : Memory α} {n : Nat} (h : m.wf n) {i : Nat} (hi : i < n) (v : α) : (m.write i v).wf n := by
  refine ⟨Memory.rising_write m i v h.1, fun e he => ?_⟩
  rcases Memory.fst_mem_write m i v (List.mem_map_of_mem he) with hj | hj
  · omega
  · obtain ⟨e', he', heq⟩ := List.mem_map.mp hj
    exact heq ▸ h.2 e' he'

theorem Memory.wf_writeFrom {m : Memory α} {n : Nat} (h : m.wf n) {i : Nat} (vs : List α) (hi : i + vs.length ≤ n) :
    (m.writeFrom i vs).wf n := by
  induction vs generalizing m i with
  | nil => exact h
  | cons v vs ih =>
    simp only [List.length_cons] at hi
    exact ih (Memory.wf_write h (by omega) v) (by omega)

theorem Memory.wf_writeAll {m : Memory α} {n : Nat} (h : m.wf n) (l : List (Nat × α)) (hl : ∀ e ∈ l, e.1 < n) :
    (m.writeAll l).wf n := by
  induction l generalizing m with
  | nil => exact h
  | cons e rest ih =>
    exact ih (Memory.wf_write h (hl e (by simp)) e.2) fun e' he' => hl e' (by simp [he'])

theorem Memory.stored_eq_some_iff_mem {m : Memory α} (h : (m.map Prod.fst).Pairwise (· < ·)) (i : Nat) (v : α) :
    m.stored i = some v ↔ (i, v) ∈ m := by
  induction m with
  | nil => simp [Memory.stored]
  | cons e rest ih =>
    obtain ⟨j, w⟩ := e
    simp only [List.map_cons, List.pairwise_cons] at h
    by_cases hij : i = j
    · subst hij
      have hnot : (i, v) ∉ rest := fun hm => lt_irrefl i (h.1 i (List.mem_map_of_mem (f := Prod.fst) hm))
      simp [Memory.stored, hnot, eq_comm]
    · simp [Memory.stored, hij, ih h.2]

/-- Canonical memories that store the same are equal data. -/
theorem Memory.eq_of_stored_eq {m m' : Memory α} {n n' : Nat} (h : m.wf n) (h' : m'.wf n')
    (heq : ∀ i, m.stored i = m'.stored i) : m = m' := by
  have mem : ∀ e, e ∈ m ↔ e ∈ m' := fun ⟨i, v⟩ => by
    rw [← Memory.stored_eq_some_iff_mem h.1, ← Memory.stored_eq_some_iff_mem h'.1, heq]
  have pw : ∀ {k : Memory α}, (k.map Prod.fst).Pairwise (· < ·) → k.Pairwise fun a b => a.1 < b.1 := fun hk =>
    List.pairwise_map.mp hk
  have nd : ∀ {k : Memory α}, (k.map Prod.fst).Pairwise (· < ·) → k.Nodup := fun hk =>
    (pw hk).imp fun hlt he => by subst he; exact lt_irrefl _ hlt
  exact List.Perm.eq_of_pairwise (le := fun a b => a.1 < b.1)
    (fun a b _ _ hab hba => absurd hab (by omega)) (pw h.1) (pw h'.1)
    ((List.perm_ext_iff_of_nodup (nd h.1) (nd h'.1)).mpr mem)

/-! ## The four buffers -/

@[simp] theorem Buffers.get_set_same (bs : Buffers) (b : BufId) (m : Memory Pixel) : (bs.set b m).get b = m := by
  cases b <;> rfl

theorem Buffers.get_set_other (bs : Buffers) {b c : BufId} (m : Memory Pixel) (h : c ≠ b) :
    (bs.set b m).get c = bs.get c := by
  cases b <;> cases c <;> first | rfl | exact absurd rfl h

@[simp] theorem Buffers.set_get (bs : Buffers) (b : BufId) : bs.set b (bs.get b) = bs := by cases b <;> rfl

end Sys2Proof.Machine
end

