-- ==== Sys2Proof/Laws/State.lean ====
section
/-! SUPPORT. One lemma per field per named update of State, each true by definition: no later proof unfolds a record
update. -/

namespace Sys2Proof.Machine

variable (s : State)

section accept
variable (w : Word)

@[simp] theorem accept_ie : (accept w s).ie = s.ie := rfl
@[simp] theorem accept_busy : (accept w s).busy = true := rfl
@[simp] theorem accept_done : (accept w s).done = false := rfl
@[simp] theorem accept_err : (accept w s).err = false := rfl
@[simp] theorem accept_accErr : (accept w s).accErr = s.accErr := rfl
@[simp] theorem accept_ksValid : (accept w s).ksValid = s.ksValid := rfl
@[simp] theorem accept_pValid : (accept w s).pValid = s.pValid := rfl
@[simp] theorem accept_qValid : (accept w s).qValid = s.qValid := rfl
@[simp] theorem accept_code : (accept w s).code = .clear := rfl
@[simp] theorem accept_cmd : (accept w s).cmd = w := rfl
@[simp] theorem accept_seed : (accept w s).seed = s.seed := rfl
@[simp] theorem accept_start : (accept w s).start = s.start := rfl
@[simp] theorem accept_width : (accept w s).width = s.width := rfl
@[simp] theorem accept_height : (accept w s).height = s.height := rfl
@[simp] theorem accept_cap : (accept w s).cap = s.cap := rfl
@[simp] theorem accept_xs : (accept w s).xs = s.xs := rfl
@[simp] theorem accept_win : (accept w s).win = s.win := rfl
@[simp] theorem accept_ainc : (accept w s).ainc = s.ainc := rfl
@[simp] theorem accept_widx : (accept w s).widx = s.widx := rfl
@[simp] theorem accept_ks : (accept w s).ks = s.ks := rfl
@[simp] theorem accept_p : (accept w s).p = s.p := rfl
@[simp] theorem accept_q : (accept w s).q = s.q := rfl
@[simp] theorem accept_buf : (accept w s).buf = s.buf := rfl
@[simp] theorem accept_epoch : (accept w s).epoch = s.epoch := rfl
@[simp] theorem accept_schedule : (accept w s).schedule = s.schedule := rfl
@[simp] theorem accept_rdata : (accept w s).rdata = s.rdata := rfl
end accept

section finish

@[simp] theorem finish_ie : (finish s).ie = s.ie := rfl
@[simp] theorem finish_busy : (finish s).busy = false := rfl
@[simp] theorem finish_done : (finish s).done = true := rfl
@[simp] theorem finish_err : (finish s).err = s.err := rfl
@[simp] theorem finish_accErr : (finish s).accErr = s.accErr := rfl
@[simp] theorem finish_ksValid : (finish s).ksValid = s.ksValid := rfl
@[simp] theorem finish_pValid : (finish s).pValid = s.pValid := rfl
@[simp] theorem finish_qValid : (finish s).qValid = s.qValid := rfl
@[simp] theorem finish_code : (finish s).code = s.code := rfl
@[simp] theorem finish_cmd : (finish s).cmd = s.cmd := rfl
@[simp] theorem finish_seed : (finish s).seed = s.seed := rfl
@[simp] theorem finish_start : (finish s).start = s.start := rfl
@[simp] theorem finish_width : (finish s).width = s.width := rfl
@[simp] theorem finish_height : (finish s).height = s.height := rfl
@[simp] theorem finish_cap : (finish s).cap = s.cap := rfl
@[simp] theorem finish_xs : (finish s).xs = s.xs := rfl
@[simp] theorem finish_win : (finish s).win = s.win := rfl
@[simp] theorem finish_ainc : (finish s).ainc = s.ainc := rfl
@[simp] theorem finish_widx : (finish s).widx = s.widx := rfl
@[simp] theorem finish_ks : (finish s).ks = s.ks := rfl
@[simp] theorem finish_p : (finish s).p = s.p := rfl
@[simp] theorem finish_q : (finish s).q = s.q := rfl
@[simp] theorem finish_buf : (finish s).buf = s.buf := rfl
@[simp] theorem finish_epoch : (finish s).epoch = s.epoch := rfl
@[simp] theorem finish_schedule : (finish s).schedule = s.schedule := rfl
@[simp] theorem finish_rdata : (finish s).rdata = s.rdata := rfl
end finish

section abort
variable (c : ErrCode)

@[simp] theorem abort_ie : (abort c s).ie = s.ie := rfl
@[simp] theorem abort_busy : (abort c s).busy = s.busy := rfl
@[simp] theorem abort_done : (abort c s).done = s.done := rfl
@[simp] theorem abort_err : (abort c s).err = true := rfl
@[simp] theorem abort_accErr : (abort c s).accErr = s.accErr := rfl
@[simp] theorem abort_ksValid : (abort c s).ksValid = s.ksValid := rfl
@[simp] theorem abort_pValid : (abort c s).pValid = s.pValid := rfl
@[simp] theorem abort_qValid : (abort c s).qValid = s.qValid := rfl
@[simp] theorem abort_code : (abort c s).code = c := rfl
@[simp] theorem abort_cmd : (abort c s).cmd = s.cmd := rfl
@[simp] theorem abort_seed : (abort c s).seed = s.seed := rfl
@[simp] theorem abort_start : (abort c s).start = s.start := rfl
@[simp] theorem abort_width : (abort c s).width = s.width := rfl
@[simp] theorem abort_height : (abort c s).height = s.height := rfl
@[simp] theorem abort_cap : (abort c s).cap = s.cap := rfl
@[simp] theorem abort_xs : (abort c s).xs = s.xs := rfl
@[simp] theorem abort_win : (abort c s).win = s.win := rfl
@[simp] theorem abort_ainc : (abort c s).ainc = s.ainc := rfl
@[simp] theorem abort_widx : (abort c s).widx = s.widx := rfl
@[simp] theorem abort_ks : (abort c s).ks = s.ks := rfl
@[simp] theorem abort_p : (abort c s).p = s.p := rfl
@[simp] theorem abort_q : (abort c s).q = s.q := rfl
@[simp] theorem abort_buf : (abort c s).buf = s.buf := rfl
@[simp] theorem abort_epoch : (abort c s).epoch = s.epoch := rfl
@[simp] theorem abort_schedule : (abort c s).schedule = s.schedule := rfl
@[simp] theorem abort_rdata : (abort c s).rdata = s.rdata := rfl
end abort

section dropAccess

@[simp] theorem dropAccess_ie : (dropAccess s).ie = s.ie := rfl
@[simp] theorem dropAccess_busy : (dropAccess s).busy = s.busy := rfl
@[simp] theorem dropAccess_done : (dropAccess s).done = s.done := rfl
@[simp] theorem dropAccess_err : (dropAccess s).err = s.err := rfl
@[simp] theorem dropAccess_accErr : (dropAccess s).accErr = true := rfl
@[simp] theorem dropAccess_ksValid : (dropAccess s).ksValid = s.ksValid := rfl
@[simp] theorem dropAccess_pValid : (dropAccess s).pValid = s.pValid := rfl
@[simp] theorem dropAccess_qValid : (dropAccess s).qValid = s.qValid := rfl
@[simp] theorem dropAccess_code : (dropAccess s).code = s.code := rfl
@[simp] theorem dropAccess_cmd : (dropAccess s).cmd = s.cmd := rfl
@[simp] theorem dropAccess_seed : (dropAccess s).seed = s.seed := rfl
@[simp] theorem dropAccess_start : (dropAccess s).start = s.start := rfl
@[simp] theorem dropAccess_width : (dropAccess s).width = s.width := rfl
@[simp] theorem dropAccess_height : (dropAccess s).height = s.height := rfl
@[simp] theorem dropAccess_cap : (dropAccess s).cap = s.cap := rfl
@[simp] theorem dropAccess_xs : (dropAccess s).xs = s.xs := rfl
@[simp] theorem dropAccess_win : (dropAccess s).win = s.win := rfl
@[simp] theorem dropAccess_ainc : (dropAccess s).ainc = s.ainc := rfl
@[simp] theorem dropAccess_widx : (dropAccess s).widx = s.widx := rfl
@[simp] theorem dropAccess_ks : (dropAccess s).ks = s.ks := rfl
@[simp] theorem dropAccess_p : (dropAccess s).p = s.p := rfl
@[simp] theorem dropAccess_q : (dropAccess s).q = s.q := rfl
@[simp] theorem dropAccess_buf : (dropAccess s).buf = s.buf := rfl
@[simp] theorem dropAccess_epoch : (dropAccess s).epoch = s.epoch := rfl
@[simp] theorem dropAccess_schedule : (dropAccess s).schedule = s.schedule := rfl
@[simp] theorem dropAccess_rdata : (dropAccess s).rdata = s.rdata := rfl
end dropAccess

section answer
variable (v : Word)

@[simp] theorem answer_ie : (answer v s).ie = s.ie := rfl
@[simp] theorem answer_busy : (answer v s).busy = s.busy := rfl
@[simp] theorem answer_done : (answer v s).done = s.done := rfl
@[simp] theorem answer_err : (answer v s).err = s.err := rfl
@[simp] theorem answer_accErr : (answer v s).accErr = s.accErr := rfl
@[simp] theorem answer_ksValid : (answer v s).ksValid = s.ksValid := rfl
@[simp] theorem answer_pValid : (answer v s).pValid = s.pValid := rfl
@[simp] theorem answer_qValid : (answer v s).qValid = s.qValid := rfl
@[simp] theorem answer_code : (answer v s).code = s.code := rfl
@[simp] theorem answer_cmd : (answer v s).cmd = s.cmd := rfl
@[simp] theorem answer_seed : (answer v s).seed = s.seed := rfl
@[simp] theorem answer_start : (answer v s).start = s.start := rfl
@[simp] theorem answer_width : (answer v s).width = s.width := rfl
@[simp] theorem answer_height : (answer v s).height = s.height := rfl
@[simp] theorem answer_cap : (answer v s).cap = s.cap := rfl
@[simp] theorem answer_xs : (answer v s).xs = s.xs := rfl
@[simp] theorem answer_win : (answer v s).win = s.win := rfl
@[simp] theorem answer_ainc : (answer v s).ainc = s.ainc := rfl
@[simp] theorem answer_widx : (answer v s).widx = s.widx := rfl
@[simp] theorem answer_ks : (answer v s).ks = s.ks := rfl
@[simp] theorem answer_p : (answer v s).p = s.p := rfl
@[simp] theorem answer_q : (answer v s).q = s.q := rfl
@[simp] theorem answer_buf : (answer v s).buf = s.buf := rfl
@[simp] theorem answer_epoch : (answer v s).epoch = s.epoch := rfl
@[simp] theorem answer_schedule : (answer v s).schedule = s.schedule := rfl
@[simp] theorem answer_rdata : (answer v s).rdata = v := rfl
end answer

section withSchedule
variable (l : List Turn)

@[simp] theorem withSchedule_ie : (withSchedule l s).ie = s.ie := rfl
@[simp] theorem withSchedule_busy : (withSchedule l s).busy = s.busy := rfl
@[simp] theorem withSchedule_done : (withSchedule l s).done = s.done := rfl
@[simp] theorem withSchedule_err : (withSchedule l s).err = s.err := rfl
@[simp] theorem withSchedule_accErr : (withSchedule l s).accErr = s.accErr := rfl
@[simp] theorem withSchedule_ksValid : (withSchedule l s).ksValid = s.ksValid := rfl
@[simp] theorem withSchedule_pValid : (withSchedule l s).pValid = s.pValid := rfl
@[simp] theorem withSchedule_qValid : (withSchedule l s).qValid = s.qValid := rfl
@[simp] theorem withSchedule_code : (withSchedule l s).code = s.code := rfl
@[simp] theorem withSchedule_cmd : (withSchedule l s).cmd = s.cmd := rfl
@[simp] theorem withSchedule_seed : (withSchedule l s).seed = s.seed := rfl
@[simp] theorem withSchedule_start : (withSchedule l s).start = s.start := rfl
@[simp] theorem withSchedule_width : (withSchedule l s).width = s.width := rfl
@[simp] theorem withSchedule_height : (withSchedule l s).height = s.height := rfl
@[simp] theorem withSchedule_cap : (withSchedule l s).cap = s.cap := rfl
@[simp] theorem withSchedule_xs : (withSchedule l s).xs = s.xs := rfl
@[simp] theorem withSchedule_win : (withSchedule l s).win = s.win := rfl
@[simp] theorem withSchedule_ainc : (withSchedule l s).ainc = s.ainc := rfl
@[simp] theorem withSchedule_widx : (withSchedule l s).widx = s.widx := rfl
@[simp] theorem withSchedule_ks : (withSchedule l s).ks = s.ks := rfl
@[simp] theorem withSchedule_p : (withSchedule l s).p = s.p := rfl
@[simp] theorem withSchedule_q : (withSchedule l s).q = s.q := rfl
@[simp] theorem withSchedule_buf : (withSchedule l s).buf = s.buf := rfl
@[simp] theorem withSchedule_epoch : (withSchedule l s).epoch = s.epoch := rfl
@[simp] theorem withSchedule_schedule : (withSchedule l s).schedule = l := rfl
@[simp] theorem withSchedule_rdata : (withSchedule l s).rdata = s.rdata := rfl
end withSchedule

section setValid
variable (k v u : Bool)

@[simp] theorem setValid_ie : (setValid k v u s).ie = s.ie := rfl
@[simp] theorem setValid_busy : (setValid k v u s).busy = s.busy := rfl
@[simp] theorem setValid_done : (setValid k v u s).done = s.done := rfl
@[simp] theorem setValid_err : (setValid k v u s).err = s.err := rfl
@[simp] theorem setValid_accErr : (setValid k v u s).accErr = s.accErr := rfl
@[simp] theorem setValid_ksValid : (setValid k v u s).ksValid = k := rfl
@[simp] theorem setValid_pValid : (setValid k v u s).pValid = v := rfl
@[simp] theorem setValid_qValid : (setValid k v u s).qValid = u := rfl
@[simp] theorem setValid_code : (setValid k v u s).code = s.code := rfl
@[simp] theorem setValid_cmd : (setValid k v u s).cmd = s.cmd := rfl
@[simp] theorem setValid_seed : (setValid k v u s).seed = s.seed := rfl
@[simp] theorem setValid_start : (setValid k v u s).start = s.start := rfl
@[simp] theorem setValid_width : (setValid k v u s).width = s.width := rfl
@[simp] theorem setValid_height : (setValid k v u s).height = s.height := rfl
@[simp] theorem setValid_cap : (setValid k v u s).cap = s.cap := rfl
@[simp] theorem setValid_xs : (setValid k v u s).xs = s.xs := rfl
@[simp] theorem setValid_win : (setValid k v u s).win = s.win := rfl
@[simp] theorem setValid_ainc : (setValid k v u s).ainc = s.ainc := rfl
@[simp] theorem setValid_widx : (setValid k v u s).widx = s.widx := rfl
@[simp] theorem setValid_ks : (setValid k v u s).ks = s.ks := rfl
@[simp] theorem setValid_p : (setValid k v u s).p = s.p := rfl
@[simp] theorem setValid_q : (setValid k v u s).q = s.q := rfl
@[simp] theorem setValid_buf : (setValid k v u s).buf = s.buf := rfl
@[simp] theorem setValid_epoch : (setValid k v u s).epoch = s.epoch := rfl
@[simp] theorem setValid_schedule : (setValid k v u s).schedule = s.schedule := rfl
@[simp] theorem setValid_rdata : (setValid k v u s).rdata = s.rdata := rfl
end setValid

section setXs
variable (w : Word)

@[simp] theorem setXs_ie : (setXs w s).ie = s.ie := rfl
@[simp] theorem setXs_busy : (setXs w s).busy = s.busy := rfl
@[simp] theorem setXs_done : (setXs w s).done = s.done := rfl
@[simp] theorem setXs_err : (setXs w s).err = s.err := rfl
@[simp] theorem setXs_accErr : (setXs w s).accErr = s.accErr := rfl
@[simp] theorem setXs_ksValid : (setXs w s).ksValid = s.ksValid := rfl
@[simp] theorem setXs_pValid : (setXs w s).pValid = s.pValid := rfl
@[simp] theorem setXs_qValid : (setXs w s).qValid = s.qValid := rfl
@[simp] theorem setXs_code : (setXs w s).code = s.code := rfl
@[simp] theorem setXs_cmd : (setXs w s).cmd = s.cmd := rfl
@[simp] theorem setXs_seed : (setXs w s).seed = s.seed := rfl
@[simp] theorem setXs_start : (setXs w s).start = s.start := rfl
@[simp] theorem setXs_width : (setXs w s).width = s.width := rfl
@[simp] theorem setXs_height : (setXs w s).height = s.height := rfl
@[simp] theorem setXs_cap : (setXs w s).cap = s.cap := rfl
@[simp] theorem setXs_xs : (setXs w s).xs = w := rfl
@[simp] theorem setXs_win : (setXs w s).win = s.win := rfl
@[simp] theorem setXs_ainc : (setXs w s).ainc = s.ainc := rfl
@[simp] theorem setXs_widx : (setXs w s).widx = s.widx := rfl
@[simp] theorem setXs_ks : (setXs w s).ks = s.ks := rfl
@[simp] theorem setXs_p : (setXs w s).p = s.p := rfl
@[simp] theorem setXs_q : (setXs w s).q = s.q := rfl
@[simp] theorem setXs_buf : (setXs w s).buf = s.buf := rfl
@[simp] theorem setXs_epoch : (setXs w s).epoch = s.epoch := rfl
@[simp] theorem setXs_schedule : (setXs w s).schedule = s.schedule := rfl
@[simp] theorem setXs_rdata : (setXs w s).rdata = s.rdata := rfl
end setXs

section clearStatus
variable (v : Word)

@[simp] theorem clearStatus_ie : (clearStatus v s).ie = s.ie := rfl
@[simp] theorem clearStatus_busy : (clearStatus v s).busy = s.busy := rfl
@[simp] theorem clearStatus_done : (clearStatus v s).done = (s.done && !v.getLsbD 1) := rfl
@[simp] theorem clearStatus_err : (clearStatus v s).err = (s.err && !v.getLsbD 2) := rfl
@[simp] theorem clearStatus_accErr : (clearStatus v s).accErr = (s.accErr && !v.getLsbD 3) := rfl
@[simp] theorem clearStatus_ksValid : (clearStatus v s).ksValid = s.ksValid := rfl
@[simp] theorem clearStatus_pValid : (clearStatus v s).pValid = s.pValid := rfl
@[simp] theorem clearStatus_qValid : (clearStatus v s).qValid = s.qValid := rfl
@[simp] theorem clearStatus_code : (clearStatus v s).code = s.code := rfl
@[simp] theorem clearStatus_cmd : (clearStatus v s).cmd = s.cmd := rfl
@[simp] theorem clearStatus_seed : (clearStatus v s).seed = s.seed := rfl
@[simp] theorem clearStatus_start : (clearStatus v s).start = s.start := rfl
@[simp] theorem clearStatus_width : (clearStatus v s).width = s.width := rfl
@[simp] theorem clearStatus_height : (clearStatus v s).height = s.height := rfl
@[simp] theorem clearStatus_cap : (clearStatus v s).cap = s.cap := rfl
@[simp] theorem clearStatus_xs : (clearStatus v s).xs = s.xs := rfl
@[simp] theorem clearStatus_win : (clearStatus v s).win = s.win := rfl
@[simp] theorem clearStatus_ainc : (clearStatus v s).ainc = s.ainc := rfl
@[simp] theorem clearStatus_widx : (clearStatus v s).widx = s.widx := rfl
@[simp] theorem clearStatus_ks : (clearStatus v s).ks = s.ks := rfl
@[simp] theorem clearStatus_p : (clearStatus v s).p = s.p := rfl
@[simp] theorem clearStatus_q : (clearStatus v s).q = s.q := rfl
@[simp] theorem clearStatus_buf : (clearStatus v s).buf = s.buf := rfl
@[simp] theorem clearStatus_epoch : (clearStatus v s).epoch = s.epoch := rfl
@[simp] theorem clearStatus_schedule : (clearStatus v s).schedule = s.schedule := rfl
@[simp] theorem clearStatus_rdata : (clearStatus v s).rdata = s.rdata := rfl
end clearStatus

section storeKs
variable (ws : List Word)

@[simp] theorem storeKs_ie : (storeKs ws s).ie = s.ie := rfl
@[simp] theorem storeKs_busy : (storeKs ws s).busy = s.busy := rfl
@[simp] theorem storeKs_done : (storeKs ws s).done = s.done := rfl
@[simp] theorem storeKs_err : (storeKs ws s).err = s.err := rfl
@[simp] theorem storeKs_accErr : (storeKs ws s).accErr = s.accErr := rfl
@[simp] theorem storeKs_ksValid : (storeKs ws s).ksValid = s.ksValid := rfl
@[simp] theorem storeKs_pValid : (storeKs ws s).pValid = s.pValid := rfl
@[simp] theorem storeKs_qValid : (storeKs ws s).qValid = s.qValid := rfl
@[simp] theorem storeKs_code : (storeKs ws s).code = s.code := rfl
@[simp] theorem storeKs_cmd : (storeKs ws s).cmd = s.cmd := rfl
@[simp] theorem storeKs_seed : (storeKs ws s).seed = s.seed := rfl
@[simp] theorem storeKs_start : (storeKs ws s).start = s.start := rfl
@[simp] theorem storeKs_width : (storeKs ws s).width = s.width := rfl
@[simp] theorem storeKs_height : (storeKs ws s).height = s.height := rfl
@[simp] theorem storeKs_cap : (storeKs ws s).cap = s.cap := rfl
@[simp] theorem storeKs_xs : (storeKs ws s).xs = s.xs := rfl
@[simp] theorem storeKs_win : (storeKs ws s).win = s.win := rfl
@[simp] theorem storeKs_ainc : (storeKs ws s).ainc = s.ainc := rfl
@[simp] theorem storeKs_widx : (storeKs ws s).widx = s.widx := rfl
@[simp] theorem storeKs_ks : (storeKs ws s).ks = s.ks.writeFrom 0 ws := rfl
@[simp] theorem storeKs_p : (storeKs ws s).p = s.p := rfl
@[simp] theorem storeKs_q : (storeKs ws s).q = s.q := rfl
@[simp] theorem storeKs_buf : (storeKs ws s).buf = s.buf := rfl
@[simp] theorem storeKs_epoch : (storeKs ws s).epoch = s.epoch := rfl
@[simp] theorem storeKs_schedule : (storeKs ws s).schedule = s.schedule := rfl
@[simp] theorem storeKs_rdata : (storeKs ws s).rdata = s.rdata := rfl
end storeKs

section storeP
variable (l : List Nat)

@[simp] theorem storeP_ie : (storeP l s).ie = s.ie := rfl
@[simp] theorem storeP_busy : (storeP l s).busy = s.busy := rfl
@[simp] theorem storeP_done : (storeP l s).done = s.done := rfl
@[simp] theorem storeP_err : (storeP l s).err = s.err := rfl
@[simp] theorem storeP_accErr : (storeP l s).accErr = s.accErr := rfl
@[simp] theorem storeP_ksValid : (storeP l s).ksValid = s.ksValid := rfl
@[simp] theorem storeP_pValid : (storeP l s).pValid = s.pValid := rfl
@[simp] theorem storeP_qValid : (storeP l s).qValid = s.qValid := rfl
@[simp] theorem storeP_code : (storeP l s).code = s.code := rfl
@[simp] theorem storeP_cmd : (storeP l s).cmd = s.cmd := rfl
@[simp] theorem storeP_seed : (storeP l s).seed = s.seed := rfl
@[simp] theorem storeP_start : (storeP l s).start = s.start := rfl
@[simp] theorem storeP_width : (storeP l s).width = s.width := rfl
@[simp] theorem storeP_height : (storeP l s).height = s.height := rfl
@[simp] theorem storeP_cap : (storeP l s).cap = s.cap := rfl
@[simp] theorem storeP_xs : (storeP l s).xs = s.xs := rfl
@[simp] theorem storeP_win : (storeP l s).win = s.win := rfl
@[simp] theorem storeP_ainc : (storeP l s).ainc = s.ainc := rfl
@[simp] theorem storeP_widx : (storeP l s).widx = s.widx := rfl
@[simp] theorem storeP_ks : (storeP l s).ks = s.ks := rfl
@[simp] theorem storeP_p : (storeP l s).p = s.p.writeFrom 0 (l.map (BitVec.ofNat 32)) := rfl
@[simp] theorem storeP_q : (storeP l s).q = s.q := rfl
@[simp] theorem storeP_buf : (storeP l s).buf = s.buf := rfl
@[simp] theorem storeP_epoch : (storeP l s).epoch = s.epoch := rfl
@[simp] theorem storeP_schedule : (storeP l s).schedule = s.schedule := rfl
@[simp] theorem storeP_rdata : (storeP l s).rdata = s.rdata := rfl
end storeP

section storeQ
variable (l : List (Nat × Nat))

@[simp] theorem storeQ_ie : (storeQ l s).ie = s.ie := rfl
@[simp] theorem storeQ_busy : (storeQ l s).busy = s.busy := rfl
@[simp] theorem storeQ_done : (storeQ l s).done = s.done := rfl
@[simp] theorem storeQ_err : (storeQ l s).err = s.err := rfl
@[simp] theorem storeQ_accErr : (storeQ l s).accErr = s.accErr := rfl
@[simp] theorem storeQ_ksValid : (storeQ l s).ksValid = s.ksValid := rfl
@[simp] theorem storeQ_pValid : (storeQ l s).pValid = s.pValid := rfl
@[simp] theorem storeQ_qValid : (storeQ l s).qValid = s.qValid := rfl
@[simp] theorem storeQ_code : (storeQ l s).code = s.code := rfl
@[simp] theorem storeQ_cmd : (storeQ l s).cmd = s.cmd := rfl
@[simp] theorem storeQ_seed : (storeQ l s).seed = s.seed := rfl
@[simp] theorem storeQ_start : (storeQ l s).start = s.start := rfl
@[simp] theorem storeQ_width : (storeQ l s).width = s.width := rfl
@[simp] theorem storeQ_height : (storeQ l s).height = s.height := rfl
@[simp] theorem storeQ_cap : (storeQ l s).cap = s.cap := rfl
@[simp] theorem storeQ_xs : (storeQ l s).xs = s.xs := rfl
@[simp] theorem storeQ_win : (storeQ l s).win = s.win := rfl
@[simp] theorem storeQ_ainc : (storeQ l s).ainc = s.ainc := rfl
@[simp] theorem storeQ_widx : (storeQ l s).widx = s.widx := rfl
@[simp] theorem storeQ_ks : (storeQ l s).ks = s.ks := rfl
@[simp] theorem storeQ_p : (storeQ l s).p = s.p := rfl
@[simp] theorem storeQ_q : (storeQ l s).q = s.q.writeAll (l.map fun e => (e.1, BitVec.ofNat 32 e.2)) := rfl
@[simp] theorem storeQ_buf : (storeQ l s).buf = s.buf := rfl
@[simp] theorem storeQ_epoch : (storeQ l s).epoch = s.epoch := rfl
@[simp] theorem storeQ_schedule : (storeQ l s).schedule = s.schedule := rfl
@[simp] theorem storeQ_rdata : (storeQ l s).rdata = s.rdata := rfl
end storeQ

section storeBuf
variable (b : BufId) (l : List (Nat × Pixel))

@[simp] theorem storeBuf_ie : (storeBuf b l s).ie = s.ie := rfl
@[simp] theorem storeBuf_busy : (storeBuf b l s).busy = s.busy := rfl
@[simp] theorem storeBuf_done : (storeBuf b l s).done = s.done := rfl
@[simp] theorem storeBuf_err : (storeBuf b l s).err = s.err := rfl
@[simp] theorem storeBuf_accErr : (storeBuf b l s).accErr = s.accErr := rfl
@[simp] theorem storeBuf_ksValid : (storeBuf b l s).ksValid = s.ksValid := rfl
@[simp] theorem storeBuf_pValid : (storeBuf b l s).pValid = s.pValid := rfl
@[simp] theorem storeBuf_qValid : (storeBuf b l s).qValid = s.qValid := rfl
@[simp] theorem storeBuf_code : (storeBuf b l s).code = s.code := rfl
@[simp] theorem storeBuf_cmd : (storeBuf b l s).cmd = s.cmd := rfl
@[simp] theorem storeBuf_seed : (storeBuf b l s).seed = s.seed := rfl
@[simp] theorem storeBuf_start : (storeBuf b l s).start = s.start := rfl
@[simp] theorem storeBuf_width : (storeBuf b l s).width = s.width := rfl
@[simp] theorem storeBuf_height : (storeBuf b l s).height = s.height := rfl
@[simp] theorem storeBuf_cap : (storeBuf b l s).cap = s.cap := rfl
@[simp] theorem storeBuf_xs : (storeBuf b l s).xs = s.xs := rfl
@[simp] theorem storeBuf_win : (storeBuf b l s).win = s.win := rfl
@[simp] theorem storeBuf_ainc : (storeBuf b l s).ainc = s.ainc := rfl
@[simp] theorem storeBuf_widx : (storeBuf b l s).widx = s.widx := rfl
@[simp] theorem storeBuf_ks : (storeBuf b l s).ks = s.ks := rfl
@[simp] theorem storeBuf_p : (storeBuf b l s).p = s.p := rfl
@[simp] theorem storeBuf_q : (storeBuf b l s).q = s.q := rfl
@[simp] theorem storeBuf_buf : (storeBuf b l s).buf = s.buf.set b ((s.buf.get b).writeAll l) := rfl
@[simp] theorem storeBuf_epoch : (storeBuf b l s).epoch = s.epoch := rfl
@[simp] theorem storeBuf_schedule : (storeBuf b l s).schedule = s.schedule := rfl
@[simp] theorem storeBuf_rdata : (storeBuf b l s).rdata = s.rdata := rfl
end storeBuf

end Sys2Proof.Machine
end

