-- ==== Sys2Proof/Laws/Operands.lean ====
section
/-! SUPPORT. What reads of N, N_MAX and of elements of the memories give after each named update (spec/00_scope.md R14,
R17), and the ranges a command reads. -/

namespace Sys2Proof.Machine

variable (s : State)

section accept
variable (w : Word)

@[simp] theorem accept_N : (accept w s).N = s.N := rfl
@[simp] theorem accept_nMax : (accept w s).nMax = s.nMax := rfl
@[simp] theorem readKs_accept (i : Nat) : readKs (accept w s) i = readKs s i := rfl
@[simp] theorem readP_accept (i : Nat) : readP (accept w s) i = readP s i := rfl
@[simp] theorem readQ_accept (i : Nat) : readQ (accept w s) i = readQ s i := rfl
@[simp] theorem readBuf_accept (c : BufId) (i : Nat) : readBuf (accept w s) c i = readBuf s c i := rfl
end accept

section finish

@[simp] theorem finish_N : (finish s).N = s.N := rfl
@[simp] theorem finish_nMax : (finish s).nMax = s.nMax := rfl
@[simp] theorem readKs_finish (i : Nat) : readKs (finish s) i = readKs s i := rfl
@[simp] theorem readP_finish (i : Nat) : readP (finish s) i = readP s i := rfl
@[simp] theorem readQ_finish (i : Nat) : readQ (finish s) i = readQ s i := rfl
@[simp] theorem readBuf_finish (c : BufId) (i : Nat) : readBuf (finish s) c i = readBuf s c i := rfl
end finish

section abort
variable (c : ErrCode)

@[simp] theorem abort_N : (abort c s).N = s.N := rfl
@[simp] theorem abort_nMax : (abort c s).nMax = s.nMax := rfl
@[simp] theorem readKs_abort (i : Nat) : readKs (abort c s) i = readKs s i := rfl
@[simp] theorem readP_abort (i : Nat) : readP (abort c s) i = readP s i := rfl
@[simp] theorem readQ_abort (i : Nat) : readQ (abort c s) i = readQ s i := rfl
@[simp] theorem readBuf_abort (b : BufId) (i : Nat) : readBuf (abort c s) b i = readBuf s b i := rfl
end abort

section dropAccess

@[simp] theorem dropAccess_N : (dropAccess s).N = s.N := rfl
@[simp] theorem dropAccess_nMax : (dropAccess s).nMax = s.nMax := rfl
@[simp] theorem readKs_dropAccess (i : Nat) : readKs (dropAccess s) i = readKs s i := rfl
@[simp] theorem readP_dropAccess (i : Nat) : readP (dropAccess s) i = readP s i := rfl
@[simp] theorem readQ_dropAccess (i : Nat) : readQ (dropAccess s) i = readQ s i := rfl
@[simp] theorem readBuf_dropAccess (c : BufId) (i : Nat) : readBuf (dropAccess s) c i = readBuf s c i := rfl
end dropAccess

section answer
variable (v : Word)

@[simp] theorem answer_N : (answer v s).N = s.N := rfl
@[simp] theorem answer_nMax : (answer v s).nMax = s.nMax := rfl
@[simp] theorem readKs_answer (i : Nat) : readKs (answer v s) i = readKs s i := rfl
@[simp] theorem readP_answer (i : Nat) : readP (answer v s) i = readP s i := rfl
@[simp] theorem readQ_answer (i : Nat) : readQ (answer v s) i = readQ s i := rfl
@[simp] theorem readBuf_answer (c : BufId) (i : Nat) : readBuf (answer v s) c i = readBuf s c i := rfl
end answer

section withSchedule
variable (l : List Turn)

@[simp] theorem withSchedule_N : (withSchedule l s).N = s.N := rfl
@[simp] theorem withSchedule_nMax : (withSchedule l s).nMax = s.nMax := rfl
@[simp] theorem readKs_withSchedule (i : Nat) : readKs (withSchedule l s) i = readKs s i := rfl
@[simp] theorem readP_withSchedule (i : Nat) : readP (withSchedule l s) i = readP s i := rfl
@[simp] theorem readQ_withSchedule (i : Nat) : readQ (withSchedule l s) i = readQ s i := rfl
@[simp] theorem readBuf_withSchedule (c : BufId) (i : Nat) : readBuf (withSchedule l s) c i = readBuf s c i := rfl
end withSchedule

section setValid
variable (k v u : Bool)

@[simp] theorem setValid_N : (setValid k v u s).N = s.N := rfl
@[simp] theorem setValid_nMax : (setValid k v u s).nMax = s.nMax := rfl
@[simp] theorem readKs_setValid (i : Nat) : readKs (setValid k v u s) i = readKs s i := rfl
@[simp] theorem readP_setValid (i : Nat) : readP (setValid k v u s) i = readP s i := rfl
@[simp] theorem readQ_setValid (i : Nat) : readQ (setValid k v u s) i = readQ s i := rfl
@[simp] theorem readBuf_setValid (c : BufId) (i : Nat) : readBuf (setValid k v u s) c i = readBuf s c i := rfl
end setValid

section setXs
variable (w : Word)

@[simp] theorem setXs_N : (setXs w s).N = s.N := rfl
@[simp] theorem setXs_nMax : (setXs w s).nMax = s.nMax := rfl
@[simp] theorem readKs_setXs (i : Nat) : readKs (setXs w s) i = readKs s i := rfl
@[simp] theorem readP_setXs (i : Nat) : readP (setXs w s) i = readP s i := rfl
@[simp] theorem readQ_setXs (i : Nat) : readQ (setXs w s) i = readQ s i := rfl
@[simp] theorem readBuf_setXs (c : BufId) (i : Nat) : readBuf (setXs w s) c i = readBuf s c i := rfl
end setXs

section clearStatus
variable (v : Word)

@[simp] theorem clearStatus_N : (clearStatus v s).N = s.N := rfl
@[simp] theorem clearStatus_nMax : (clearStatus v s).nMax = s.nMax := rfl
@[simp] theorem readKs_clearStatus (i : Nat) : readKs (clearStatus v s) i = readKs s i := rfl
@[simp] theorem readP_clearStatus (i : Nat) : readP (clearStatus v s) i = readP s i := rfl
@[simp] theorem readQ_clearStatus (i : Nat) : readQ (clearStatus v s) i = readQ s i := rfl
@[simp] theorem readBuf_clearStatus (c : BufId) (i : Nat) : readBuf (clearStatus v s) c i = readBuf s c i := rfl
end clearStatus

section storeKs
variable (ws : List Word)

@[simp] theorem storeKs_N : (storeKs ws s).N = s.N := rfl
@[simp] theorem storeKs_nMax : (storeKs ws s).nMax = s.nMax := rfl
@[simp] theorem readP_storeKs (i : Nat) : readP (storeKs ws s) i = readP s i := rfl
@[simp] theorem readQ_storeKs (i : Nat) : readQ (storeKs ws s) i = readQ s i := rfl
@[simp] theorem readBuf_storeKs (c : BufId) (i : Nat) : readBuf (storeKs ws s) c i = readBuf s c i := rfl
end storeKs

section storeP
variable (l : List Nat)

@[simp] theorem storeP_N : (storeP l s).N = s.N := rfl
@[simp] theorem storeP_nMax : (storeP l s).nMax = s.nMax := rfl
@[simp] theorem readKs_storeP (i : Nat) : readKs (storeP l s) i = readKs s i := rfl
@[simp] theorem readQ_storeP (i : Nat) : readQ (storeP l s) i = readQ s i := rfl
@[simp] theorem readBuf_storeP (c : BufId) (i : Nat) : readBuf (storeP l s) c i = readBuf s c i := rfl
end storeP

section storeQ
variable (l : List (Nat × Nat))

@[simp] theorem storeQ_N : (storeQ l s).N = s.N := rfl
@[simp] theorem storeQ_nMax : (storeQ l s).nMax = s.nMax := rfl
@[simp] theorem readKs_storeQ (i : Nat) : readKs (storeQ l s) i = readKs s i := rfl
@[simp] theorem readP_storeQ (i : Nat) : readP (storeQ l s) i = readP s i := rfl
@[simp] theorem readBuf_storeQ (c : BufId) (i : Nat) : readBuf (storeQ l s) c i = readBuf s c i := rfl
end storeQ

section storeBuf
variable (b : BufId) (l : List (Nat × Pixel))

@[simp] theorem storeBuf_N : (storeBuf b l s).N = s.N := rfl
@[simp] theorem storeBuf_nMax : (storeBuf b l s).nMax = s.nMax := rfl
@[simp] theorem readKs_storeBuf (i : Nat) : readKs (storeBuf b l s) i = readKs s i := rfl
@[simp] theorem readP_storeBuf (i : Nat) : readP (storeBuf b l s) i = readP s i := rfl
@[simp] theorem readQ_storeBuf (i : Nat) : readQ (storeBuf b l s) i = readQ s i := rfl
end storeBuf

/-! ## Reads after stores -/

theorem readKs_storeKs (ws : List Word) (k : Nat) :
    readKs (storeKs ws s) k = if k < ws.length then ws.getD k 0#32 else readKs s k := by
  simp only [readKs, storeKs_ks, storeKs_epoch, Memory.stored_writeFrom, Nat.zero_le, true_and, Nat.zero_add, Nat.sub_zero]
  by_cases h : k < ws.length
  · rw [if_pos h, if_pos h, List.getElem?_eq_getElem h, List.getD_eq_getElem?_getD, List.getElem?_eq_getElem h]; rfl
  · rw [if_neg h, if_neg h]

theorem readP_storeP (l : List Nat) (k : Nat) :
    readP (storeP l s) k = if k < l.length then BitVec.ofNat 32 (l.getD k 0) else readP s k := by
  simp only [readP, storeP_p, storeP_epoch, Memory.stored_writeFrom, Nat.zero_le, true_and, Nat.zero_add, Nat.sub_zero,
    List.length_map]
  by_cases h : k < l.length
  · rw [if_pos h, if_pos h, List.getElem?_map, List.getElem?_eq_getElem h, List.getD_eq_getElem?_getD,
      List.getElem?_eq_getElem h]; rfl
  · rw [if_neg h, if_neg h]

theorem readQ_storeQ_mem (l : List (Nat × Nat)) (hn : (l.map Prod.fst).Nodup) {k v : Nat} (h : (k, v) ∈ l) :
    readQ (storeQ l s) k = BitVec.ofNat 32 v := by
  have hm : (k, BitVec.ofNat 32 v) ∈ l.map fun e => (e.1, BitVec.ofNat 32 e.2) := List.mem_map.mpr ⟨(k, v), h, rfl⟩
  have hn' : ((l.map fun e => (e.1, BitVec.ofNat 32 e.2)).map Prod.fst).Nodup := by simpa [Function.comp_def] using hn
  simp only [readQ, storeQ_q, Memory.stored_writeAll_mem _ _ hn' hm, Option.getD_some]

theorem readQ_storeQ_other (l : List (Nat × Nat)) {k : Nat} (h : k ∉ l.map Prod.fst) :
    readQ (storeQ l s) k = readQ s k := by
  have h' : k ∉ (l.map fun e => (e.1, BitVec.ofNat 32 e.2)).map Prod.fst := by simpa [Function.comp_def] using h
  simp only [readQ, storeQ_q, storeQ_epoch, Memory.stored_writeAll_other _ _ h']

theorem readBuf_storeBuf_mem (b : BufId) (l : List (Nat × Pixel)) (hn : (l.map Prod.fst).Nodup) {k : Nat} {v : Pixel}
    (h : (k, v) ∈ l) : readBuf (storeBuf b l s) b k = v := by
  simp only [readBuf, storeBuf_buf, Buffers.get_set_same, Memory.stored_writeAll_mem _ _ hn h, Option.getD_some]

theorem readBuf_storeBuf_other (b : BufId) (l : List (Nat × Pixel)) {k : Nat} (h : k ∉ l.map Prod.fst) :
    readBuf (storeBuf b l s) b k = readBuf s b k := by
  simp only [readBuf, storeBuf_buf, storeBuf_epoch, Buffers.get_set_same, Memory.stored_writeAll_other _ _ h]

theorem get_storeBuf_ne {b c : BufId} (l : List (Nat × Pixel)) (h : c ≠ b) :
    (storeBuf b l s).buf.get c = s.buf.get c := Buffers.get_set_other _ _ h

theorem readBuf_storeBuf_ne {b c : BufId} (l : List (Nat × Pixel)) (h : c ≠ b) (k : Nat) :
    readBuf (storeBuf b l s) c k = readBuf s c k := by
  simp only [readBuf, get_storeBuf_ne s l h, storeBuf_epoch]

/-! ## Numbered lists -/

theorem numbered_fst {α : Type} (l : List α) : (numbered l).map Prod.fst = List.range l.length :=
  List.map_fst_zip (by simp)

theorem mem_numbered {α : Type} (l : List α) {k : Nat} {v : α} (h : l[k]? = some v) : (k, v) ∈ numbered l := by
  obtain ⟨hk, hv⟩ := List.getElem?_eq_some_iff.mp h
  refine List.mem_iff_getElem.mpr ⟨k, by simpa [numbered] using hk, ?_⟩
  simp [numbered, hv]

theorem readBuf_storeBuf_numbered (b : BufId) (l : List Pixel) (k : Nat) :
    readBuf (storeBuf b (numbered l) s) b k = (l[k]?).getD (readBuf s b k) := by
  rcases h : l[k]? with _ | v
  · rw [readBuf_storeBuf_other]
    · rfl
    · rw [numbered_fst]; simpa using List.getElem?_eq_none_iff.mp h
  · rw [readBuf_storeBuf_mem s b _ (by rw [numbered_fst]; exact List.nodup_range) (mem_numbered l h)]; rfl

theorem readQ_storeQ_numbered (l : List Nat) (k : Nat) :
    readQ (storeQ (numbered l) s) k = ((l[k]?).map (BitVec.ofNat 32)).getD (readQ s k) := by
  rcases h : l[k]? with _ | v
  · rw [readQ_storeQ_other]
    · rfl
    · rw [numbered_fst]; simpa using List.getElem?_eq_none_iff.mp h
  · rw [readQ_storeQ_mem s _ (by rw [numbered_fst]; exact List.nodup_range) (mem_numbered l h)]; rfl

/-! ## Ranges -/

@[simp] theorem length_ksRange (a n : Nat) : (ksRange s a n).length = n := by simp [ksRange]
@[simp] theorem length_bufRange (b : BufId) (n : Nat) : (bufRange s b n).length = n := by simp [bufRange]
@[simp] theorem length_tableRange (t : Table) (n : Nat) : (tableRange s t n).length = n := by simp [tableRange]

theorem getElem?_ksRange (a n k : Nat) : (ksRange s a n)[k]? = if k < n then some (readKs s (a + k)) else none := by
  by_cases h : k < n <;> simp [ksRange, h]

theorem getElem?_bufRange (b : BufId) (n k : Nat) :
    (bufRange s b n)[k]? = if k < n then some (readBuf s b k) else none := by
  by_cases h : k < n <;> simp [bufRange, h]

theorem getElem?_tableRange (t : Table) (n k : Nat) :
    (tableRange s t n)[k]? = if k < n then some (readTable s t k).toNat else none := by
  by_cases h : k < n <;> simp [tableRange, h]

theorem tableRange_eq_of_read {s t : State} {a b : Table} {n : Nat} (h : ∀ i < n, readTable s a i = readTable t b i) :
    tableRange s a n = tableRange t b n :=
  List.map_congr_left fun i hi => by rw [h i (List.mem_range.mp hi)]

theorem ksRange_eq_of_read {s t : State} {a n : Nat} (h : ∀ k < n, readKs s (a + k) = readKs t (a + k)) :
    ksRange s a n = ksRange t a n :=
  List.map_congr_left fun i hi => h i (List.mem_range.mp hi)

theorem bufRange_eq_of_read {s t : State} {b c : BufId} {n : Nat} (h : ∀ k < n, readBuf s b k = readBuf t c k) :
    bufRange s b n = bufRange t c n :=
  List.map_congr_left fun i hi => h i (List.mem_range.mp hi)

theorem N_le_word {s : State} (h : s.N ≤ s.nMax) : s.N < 2 ^ 32 := lt_of_le_of_lt h s.cap.isLt

end Sys2Proof.Machine
end

