-- ==== Sys2Proof/Laws/Bus.lean ====
section
/-! SUPPORT. The host's accesses: which register an access reaches, and what each turn is as a step
(spec/20_memory.md R60 to R69). -/

namespace Sys2Proof.Machine

/-- The offset of each mapped register (R21). -/
def offsetOf : Reg → Offset
  | .ctrl => 0x000#12
  | .status => 0x004#12
  | .errcode => 0x008#12
  | .cmd => 0x00C#12
  | .seed => 0x010#12
  | .start => 0x014#12
  | .width => 0x018#12
  | .height => 0x01C#12
  | .npix => 0x020#12
  | .cap => 0x024#12
  | .xs => 0x028#12
  | .wsel => 0x02C#12
  | .widx => 0x030#12
  | .wdata => 0x034#12

theorem reached_read (r : Reg) : reached (.read .word (offsetOf r)) = some r := by
  cases r <;> simp [reached, HostOp.wf, HostOp.size, HostOp.off, regAt, offsetOf]

theorem reached_write (r : Reg) (v : Word) : reached (.write .word (offsetOf r) v) = some r := by
  cases r <;> simp [reached, HostOp.wf, HostOp.size, HostOp.off, regAt, offsetOf]

/-- Only an offset of the map is mapped (R41). -/
theorem regAt_eq_some {off : Offset} {r : Reg} (h : regAt off = some r) : off = offsetOf r := by
  simp only [regAt] at h
  split at h <;> cases h <;> rfl

theorem hostStep_eq (op : HostOp) (s : State) : hostStep op s = .next (hostAccess op s) := rfl

theorem hostRead_eq (r : Reg) (s : State) : hostRead (offsetOf r) s = .next (readReg s r) := by
  simp only [hostRead, hostStep_eq, hostAccess, reached_read]

theorem hostWrite_eq (r : Reg) (v : Word) (s : State) : hostWrite (offsetOf r) v s = .next (writeReg v s r) := by
  simp only [hostWrite, hostStep_eq, hostAccess, reached_write]

theorem blockStep_eq (s : State) : blockStep s = blockTurn s := rfl

theorem resetStep_eq (s : State) : resetStep s = .next (resetBlock s) := rfl

/-- An access that reaches no register is dropped: a read answers 0, either sets ACCERR (R61, R63). -/
theorem hostAccess_of_unreached {op : HostOp} (s : State) (h : reached op = none) :
    hostAccess op s = (match op with | .read _ _ => answer 0#32 (dropAccess s) | .write _ _ _ => dropAccess s) := by
  cases op <;> simp [hostAccess, h]

/-- Everything a host access can be. -/
theorem hostAccess_cases (op : HostOp) (s : State) :
    (reached op = none ∧ (hostAccess op s = dropAccess s ∨ hostAccess op s = answer 0#32 (dropAccess s))) ∨
    (∃ r, op = .read .word (offsetOf r) ∧ hostAccess op s = readReg s r) ∨
    ∃ r v, op = .write .word (offsetOf r) v ∧ hostAccess op s = writeReg v s r := by
  rcases hr : reached op with _ | r
  · refine .inl ⟨rfl, ?_⟩
    rw [hostAccess_of_unreached s hr]
    cases op
    · exact .inr rfl
    · exact .inl rfl
  · have hwf : op.wf = true ∧ regAt op.off = some r := by
      simp only [reached] at hr
      split at hr
      · next hwf => exact ⟨hwf, hr⟩
      · cases hr
    have hoff := regAt_eq_some hwf.2
    have hsize : op.size = .word := by
      have := hwf.1
      simp only [HostOp.wf, Bool.and_eq_true, beq_iff_eq] at this
      exact this.1
    cases op with
    | read size off =>
      simp only [HostOp.off, HostOp.size] at hoff hsize
      subst hoff hsize
      exact .inr (.inl ⟨r, rfl, by simp only [hostAccess, hr]⟩)
    | write size off v =>
      simp only [HostOp.off, HostOp.size] at hoff hsize
      subst hoff hsize
      exact .inr (.inr ⟨r, v, rfl, by simp only [hostAccess, hr]⟩)

/-- A CMD write while idle is an acceptance (R110). -/
theorem hostWrite_cmd_idle {s : State} (w : Word) (h : s.busy = false) :
    hostWrite 0x00C#12 w s = .next (accept w s) := by
  rw [show (0x00C#12 : Offset) = offsetOf .cmd from rfl, hostWrite_eq]
  simp [writeReg, whenIdle, h]

end Sys2Proof.Machine
end

