-- ==== Sys2Proof/Laws/Functions.lean ====
section
/-! SUPPORT. Small laws of the sequence functions: lengths, what a store into a list leaves, and one keystream or chain
step at a time. -/

namespace Sys2Proof.Machine

variable {α : Type}

@[simp] theorem length_generate (seed : Word) (n : Nat) : (generate seed n).length = n := by
  induction n generalizing seed with
  | zero => rfl
  | succ n ih => simp [generate, ih]

theorem getElem?_generate_zero (seed : Word) (n : Nat) : (generate seed (n + 1))[0]? = some (xsStep seed) := rfl

theorem getElem?_generate_succ (seed : Word) (n k : Nat) :
    (generate seed (n + 1))[k + 1]? = (generate (xsStep seed) n)[k]? := rfl

/-- The last word of the stream of `xsStep seed` is that of `seed`, one word later. -/
theorem getLastD_generate_succ (seed : Word) (n : Nat) :
    (generate seed (n + 1)).getLastD seed = (generate (xsStep seed) n).getLastD (xsStep seed) := by
  simp only [generate, List.getLastD_cons]

@[simp] theorem length_swapEntries (l : List α) (i r : Nat) : (swapEntries l i r).length = l.length := by
  unfold swapEntries; split <;> simp

@[simp] theorem length_buildFrom (draws : List Word) (i : Nat) (perm : List Nat) :
    (buildFrom draws i perm).length = perm.length := by
  induction i generalizing perm with
  | zero => rfl
  | succ i ih => simp [buildFrom, ih]

@[simp] theorem length_build (n : Nat) (draws : List Word) : (build n draws).length = n := by simp [build]

/-! ## Stores into lists -/

@[simp] theorem length_storeEach (out : List α) (l : List (Nat × α)) : (storeEach out l).length = out.length := by
  induction l generalizing out with
  | nil => rfl
  | cons e rest ih => simp [storeEach, ih]

theorem getElem?_storeEach_other (out : List α) (l : List (Nat × α)) {k : Nat} (h : k ∉ l.map Prod.fst) :
    (storeEach out l)[k]? = out[k]? := by
  induction l generalizing out with
  | nil => rfl
  | cons e rest ih =>
    simp only [List.map_cons, List.mem_cons, not_or] at h
    rw [storeEach, ih _ h.2, List.getElem?_set_ne (Ne.symm h.1)]

theorem getElem?_storeEach_mem (out : List α) (l : List (Nat × α)) (hn : (l.map Prod.fst).Nodup) {k : Nat} {v : α}
    (hk : k < out.length) (h : (k, v) ∈ l) : (storeEach out l)[k]? = some v := by
  induction l generalizing out with
  | nil => simp at h
  | cons e rest ih =>
    obtain ⟨j, w⟩ := e
    simp only [List.map_cons, List.nodup_cons] at hn
    rcases List.mem_cons.mp h with h | h
    · cases h
      rw [storeEach, getElem?_storeEach_other _ _ hn.1]; simp [hk]
    · exact ih (out.set j w) hn.2 (by simpa using hk) h

@[simp] theorem length_invert (P : List Nat) : (invert P).length = P.length := by simp [invert]

@[simp] theorem length_scatter (x : List α) (T : List Nat) : (scatter x T).length = x.length := by simp [scatter]

/-! ## The chain -/

@[simp] theorem length_chainForward (prev : Pixel) (x : List Pixel) (ks : List Word) :
    (chainForward prev x ks).length = min x.length ks.length := by
  induction x generalizing prev ks with
  | nil => simp [chainForward]
  | cons p x ih => cases ks <;> simp [chainForward, ih]

@[simp] theorem length_chainReverse (prev : Pixel) (x : List Pixel) (ks : List Word) :
    (chainReverse prev x ks).length = min x.length ks.length := by
  induction x generalizing prev ks with
  | nil => simp [chainReverse]
  | cons p x ih => cases ks <;> simp [chainReverse, ih]

@[simp] theorem length_forward (x : List Pixel) (ks : List Word) (s : Word) :
    (forward x ks s).length = min x.length ks.length := length_chainForward _ _ _

@[simp] theorem length_reverse (x : List Pixel) (ks : List Word) (s : Word) :
    (reverse x ks s).length = min x.length ks.length := length_chainReverse _ _ _

end Sys2Proof.Machine
end

