-- ==== Sys2Proof/Laws/Command.lean ====
section
/-! SUPPORT. What the shared operations of a command can do: the checks, the completion step, and one step of the machine
(spec/40_command_execution.md R110 to R114). -/

namespace Sys2Proof.Machine

/-! ## The checks -/

theorem check_eq_none_iff (i : Instr) (s : State) :
    check i s = none ↔ failsSize i s = false ∧ failsAlias i = false ∧ failsKs i s = false ∧ failsTable i s = false ∧
      failsPerm i s = false := by
  simp only [check]
  cases failsSize i s <;> cases failsAlias i <;> cases failsKs i s <;> cases failsTable i s <;> cases failsPerm i s <;>
    simp

theorem check_eq_some_cases {i : Instr} {s : State} {c : ErrCode} (h : check i s = some c) :
    (c = .size ∧ failsSize i s = true) ∨
    (c = .aliasing ∧ failsSize i s = false ∧ failsAlias i = true) ∨
    (c = .noKs ∧ failsSize i s = false ∧ failsAlias i = false ∧ failsKs i s = true) ∨
    (c = .noTable ∧ failsSize i s = false ∧ failsAlias i = false ∧ failsKs i s = false ∧ failsTable i s = true) ∨
    (c = .notPerm ∧ failsSize i s = false ∧ failsAlias i = false ∧ failsKs i s = false ∧ failsTable i s = false ∧
      failsPerm i s = true) := by
  revert h
  simp only [check]
  cases failsSize i s <;> cases failsAlias i <;> cases failsKs i s <;> cases failsTable i s <;> cases failsPerm i s <;>
    simp [eq_comm]

theorem failsSize_iff (i : Instr) (s : State) : failsSize i s = true ↔ CheckFails i s .size := by
  cases i <;> simp [failsSize, CheckFails]

theorem failsAlias_iff (i : Instr) (s : State) : failsAlias i = true ↔ CheckFails i s .aliasing := by
  constructor
  · intro h
    cases i <;> simp only [failsAlias, beq_iff_eq, Bool.false_eq_true] at h
    case scat a b t => subst h; exact ⟨a, t, by simp⟩
    case gath a b t => subst h; exact ⟨a, t, by simp⟩
    all_goals next a b => subst h; exact ⟨a, .P, by simp⟩
  · rintro ⟨b, t, hm⟩
    simp only [List.mem_cons, List.not_mem_nil, or_false] at hm
    rcases hm with rfl | rfl | rfl | rfl | rfl | rfl <;> simp [failsAlias]

theorem failsKs_iff (i : Instr) (s : State) : failsKs i s = true ↔ CheckFails i s .noKs := by
  cases i <;> simp [failsKs, CheckFails]

theorem failsTable_iff (i : Instr) (s : State) : failsTable i s = true ↔ CheckFails i s .noTable := by
  cases i
  case scat a b t => cases t <;> simp [failsTable, CheckFails, tableValid]
  case gath a b t => cases t <;> simp [failsTable, CheckFails, tableValid]
  all_goals simp [failsTable, CheckFails]

theorem failsPerm_iff (i : Instr) (s : State) : failsPerm i s = true ↔ i = .pchk ∧ holdsPerm s = false := by
  cases i <;> simp [failsPerm]

/-! ## The completion step of a command -/

theorem runCommand_of_abort {i : Instr} {s : State} {c : ErrCode} (e : State → Host.Outcome State Fault Refusal)
    (h : check i s = some c) : runCommand i e s = .next (finish (abort c s)) := by
  simp only [runCommand, h]

theorem runCommand_of_pass {i : Instr} {s t : State} {e : State → Host.Outcome State Fault Refusal}
    (h : check i s = none) (he : e s = .next t) : runCommand i e s = .next (finish t) := by
  simp only [runCommand, h, he]

/-- A completion step that goes on either recorded the abort of the failing check, or executed and finished. -/
theorem runCommand_cases {i : Instr} {s t : State} {e : State → Host.Outcome State Fault Refusal}
    (h : runCommand i e s = .next t) :
    (∃ c, check i s = some c ∧ t = finish (abort c s)) ∨ (check i s = none ∧ ∃ u, e s = .next u ∧ t = finish u) := by
  rcases hc : check i s with _ | c
  · rcases he : e s with u | f | r
    · rw [runCommand_of_pass hc he] at h
      exact .inr ⟨rfl, u, rfl, (Host.Outcome.next.inj h).symm⟩
    · simp [runCommand, hc, he] at h
    · simp [runCommand, hc, he] at h
  · rw [runCommand_of_abort e hc] at h
    exact .inl ⟨c, rfl, (Host.Outcome.next.inj h).symm⟩

theorem whenInCapacity_of_le {l : List Nat} {s : State} (t : State) (h : inCapacity s l = true) :
    whenInCapacity l t s = .next t := by simp only [whenInCapacity, h, if_true]

theorem whenInCapacity_cases {l : List Nat} {s t u : State} (h : whenInCapacity l t s = .next u) :
    inCapacity s l = true ∧ u = t := by
  rcases hc : inCapacity s l
  · simp [whenInCapacity, hc] at h
  · rw [whenInCapacity_of_le t hc] at h
    exact ⟨rfl, (Host.Outcome.next.inj h).symm⟩

theorem inCapacity_iff (s : State) (l : List Nat) : inCapacity s l = true ↔ ∀ j ∈ l, j < s.nMax := by
  simp [inCapacity]

/-- What each command executes once its checks have passed. -/
def executeOf : Instr → State → Host.Outcome State Fault Refusal
  | .nop => executeNop
  | .gen => executeGen
  | .pbuild => executePbuild
  | .pinv => executePinv
  | .pchk => executePchk
  | .scat src dst t => executeScat src dst t
  | .gath src dst t => executeGath src dst t
  | .cfwd src dst => executeCfwd src dst
  | .crev src dst => executeCrev src dst
  | .enc src dst => executeEnc src dst
  | .dec src dst => executeDec src dst

/-- Every command is its checks and its own `execute`. -/
theorem exec_eq (i : Instr) (s : State) : exec i s = runCommand i (executeOf i) s := by cases i <;> rfl

/-- A command whose check fails aborts, in the state the abort leaves. -/
theorem exec_of_abort {i : Instr} {s : State} {c : ErrCode} (h : check i s = some c) :
    exec i s = .next (finish (abort c s)) := by rw [exec_eq, runCommand_of_abort _ h]

/-- A command whose checks pass executes and finishes. -/
theorem exec_of_pass {i : Instr} {s t : State} (h : check i s = none) (he : executeOf i s = .next t) :
    exec i s = .next (finish t) := by rw [exec_eq, runCommand_of_pass h he]

/-- Everything a command that goes on can have done. -/
theorem exec_cases {i : Instr} {s t : State} (h : exec i s = .next t) :
    (∃ c, check i s = some c ∧ t = finish (abort c s)) ∨
    (check i s = none ∧ ∃ u, executeOf i s = .next u ∧ t = finish u) :=
  runCommand_cases (exec_eq i s ▸ h)

/-! ## One step -/

/-- Whose turn it is not matters only for the schedule: the turn is taken off it. -/
theorem withSchedule_tail_of_nil {s : State} (h : s.schedule = []) : withSchedule s.schedule.tail s = s := by
  cases s; subst h; rfl

/-- Everything a step that goes on can be: the block idles, completes a command, aborts an illegal word; the host makes
an access; or RST is pulsed. -/
theorem step_cases {s t : State} (h : step s = .next t) :
    (s.busy = false ∧ (s.schedule = [] ∨ ∃ rest, s.schedule = .block :: rest) ∧
      t = withSchedule s.schedule.tail s) ∨
    (∃ i, Completes s i ∧ exec i (withSchedule s.schedule.tail s) = .next t) ∨
    (s.busy = true ∧ (∃ e, decode s.cmd = .error e) ∧ (s.schedule = [] ∨ ∃ rest, s.schedule = .block :: rest) ∧
      t = finish (abort .illegal (withSchedule s.schedule.tail s))) ∨
    (∃ op, s.schedule = .host op :: s.schedule.tail ∧ t = hostAccess op (withSchedule s.schedule.tail s)) ∨
    (s.schedule = .reset :: s.schedule.tail ∧ t = resetBlock (withSchedule s.schedule.tail s)) := by
  have blockCase : ∀ u : State, u = withSchedule s.schedule.tail s →
      (s.schedule = [] ∨ ∃ rest, s.schedule = .block :: rest) → blockTurn u = .next t →
      (s.busy = false ∧ (s.schedule = [] ∨ ∃ rest, s.schedule = .block :: rest) ∧
        t = withSchedule s.schedule.tail s) ∨
      (∃ i, Completes s i ∧ exec i (withSchedule s.schedule.tail s) = .next t) ∨
      (s.busy = true ∧ (∃ e, decode s.cmd = .error e) ∧ (s.schedule = [] ∨ ∃ rest, s.schedule = .block :: rest) ∧
        t = finish (abort .illegal (withSchedule s.schedule.tail s))) := by
    rintro u rfl hs hb
    rcases hbusy : s.busy
    · simp only [blockTurn, withSchedule_busy, hbusy] at hb
      exact .inl ⟨rfl, hs, (Host.Outcome.next.inj hb).symm⟩
    · simp only [blockTurn, withSchedule_busy, hbusy, if_true, completion, withSchedule_cmd] at hb
      rcases hd : decode s.cmd with e | i
      · simp only [hd] at hb
        exact .inr (.inr ⟨rfl, ⟨e, rfl⟩, hs, (Host.Outcome.next.inj hb).symm⟩)
      · simp only [hd] at hb
        exact .inr (.inl ⟨i, ⟨hbusy, hd, hs⟩, hb⟩)
  simp only [step, takeTurn] at h
  rcases hs : s.schedule with _ | ⟨turn, rest⟩
  · simp only [hs] at h
    rcases blockCase s (withSchedule_tail_of_nil hs).symm (.inl hs) h with h | h | h <;> simp_all
  · rcases turn with op | _ | _
    · simp only [hs] at h
      exact .inr (.inr (.inr (.inl ⟨op, by simp, by simpa using (Host.Outcome.next.inj h).symm⟩)))
    · simp only [hs] at h
      rcases blockCase (withSchedule rest s) (by simp [hs]) (.inr ⟨rest, hs⟩) h with h | h | h <;> simp_all
    · simp only [hs] at h
      exact .inr (.inr (.inr (.inr ⟨by simp, by simpa using (Host.Outcome.next.inj h).symm⟩)))

end Sys2Proof.Machine
end

