-- ==== Sys2Proof/Laws/Encoding.lean ====
section
/-! SUPPORT. Small laws of the command word's fields (spec/30_encoding.md R90 to R96). -/

namespace Sys2Proof

@[simp] theorem bufOfField_fieldOfBuf (b : BufId) : bufOfField (fieldOfBuf b) = b := by cases b <;> rfl
@[simp] theorem fieldOfBuf_bufOfField (f : BitVec 2) : fieldOfBuf (bufOfField f) = f := by revert f; decide
@[simp] theorem tableOfField_fieldOfTable (t : Table) : tableOfField (fieldOfTable t) = t := by cases t <;> rfl
@[simp] theorem fieldOfTable_tableOfField (f : BitVec 1) : fieldOfTable (tableOfField f) = f := by revert f; decide

/-- A word is its fields side by side. -/
theorem word_eq_fields (w : Word) :
    w = (w >>> 13).extractLsb' 0 19 ++ tField w ++ dstField w ++ srcField w ++ opField w := by
  apply BitVec.eq_of_getLsbD_eq
  intro i hi
  simp only [BitVec.getLsbD_append, tField, dstField, srcField, opField, BitVec.getLsbD_extractLsb',
    BitVec.getLsbD_ushiftRight]
  interval_cases i <;> simp

/-- What `readFields` answers with is what it was given, and the bits it looked at are zero. -/
theorem readFields_ok {w : Word} {used : Nat} {i j : Instr} (h : readFields w used i = .ok j) :
    w >>> used = 0#32 ∧ j = i := by
  unfold readFields at h
  split at h
  · next hz => exact ⟨hz, by cases h; rfl⟩
  · cases h

/-- With RSV zero a word is format C of its fields (R93). -/
theorem eq_formatC_of_rsv {w : Word} (h : w >>> 13 = 0#32) :
    w = formatC (opField w) (srcField w) (dstField w) (tField w) := by
  conv_lhs => rw [word_eq_fields w, h]
  rfl

/-- With T and RSV zero a word is format C of OP, SRC and DST (R94). -/
theorem eq_formatC_of_t_rsv {w : Word} (h : w >>> 12 = 0#32) :
    w = formatC (opField w) (srcField w) (dstField w) 0#1 := by
  have h13 : w >>> 13 = 0#32 := by
    rw [show w >>> 13 = (w >>> 12) >>> 1 from BitVec.shiftRight_add w 12 1, h]; rfl
  have ht : tField w = 0#1 := by
    rw [show tField w = (w >>> 12).extractLsb' 0 1 by ext i hi; simp [tField], h]; rfl
  rw [← ht]; exact eq_formatC_of_rsv h13

/-- With every bit above OP zero a word is format C of OP alone (R94). -/
theorem eq_formatC_of_unused {w : Word} (h : w >>> 8 = 0#32) : w = formatC (opField w) 0#2 0#2 0#1 := by
  have h12 : w >>> 12 = 0#32 := by
    rw [show w >>> 12 = (w >>> 8) >>> 4 from BitVec.shiftRight_add w 8 4, h]; rfl
  have hs : srcField w = 0#2 := by
    rw [show srcField w = (w >>> 8).extractLsb' 0 2 by ext i hi; simp [srcField], h]; rfl
  have hd : dstField w = 0#2 := by
    rw [show dstField w = (w >>> 8).extractLsb' 2 2 by
      ext i hi; simp only [dstField, BitVec.getElem_extractLsb', BitVec.getLsbD_ushiftRight]; congr 1; omega, h]; rfl
  conv_lhs => rw [eq_formatC_of_t_rsv h12, hs, hd]

end Sys2Proof
end

