-- ==== Sys2Proof/Laws/PerInstr.lean ====
section
/-! SUPPORT. A law of the commands as syntax, one lemma per constructor: the encoding of a command matches the row of
spec/opcode_table.json that has its mnemonic, and no other row (spec/30_encoding.md R96). -/

namespace Sys2Proof.Laws.EncodingMatchesRow

/-- The rows that the encoding of `i` matches are exactly the one named after `i`. -/
def Statement (i : Instr) : Prop := (matchingRows (encode i)).map OpcodeRow.mnemonic = [mnemonicOf i]

theorem nop : Statement .nop := by unfold Statement; decide
theorem gen : Statement .gen := by unfold Statement; decide
theorem pbuild : Statement .pbuild := by unfold Statement; decide
theorem pinv : Statement .pinv := by unfold Statement; decide
theorem pchk : Statement .pchk := by unfold Statement; decide
theorem scat (src dst : BufId) (t : Table) : Statement (.scat src dst t) := by
  unfold Statement; cases src <;> cases dst <;> cases t <;> decide
theorem gath (src dst : BufId) (t : Table) : Statement (.gath src dst t) := by
  unfold Statement; cases src <;> cases dst <;> cases t <;> decide
theorem cfwd (src dst : BufId) : Statement (.cfwd src dst) := by unfold Statement; cases src <;> cases dst <;> decide
theorem crev (src dst : BufId) : Statement (.crev src dst) := by unfold Statement; cases src <;> cases dst <;> decide
theorem enc (src dst : BufId) : Statement (.enc src dst) := by unfold Statement; cases src <;> cases dst <;> decide
theorem dec (src dst : BufId) : Statement (.dec src dst) := by unfold Statement; cases src <;> cases dst <;> decide

end Sys2Proof.Laws.EncodingMatchesRow
end

