-- ==== Sys2Proof/Laws/Wf.lean ====
section
/-! SUPPORT. The canonical form of the memories holds at reset and every operation keeps it (spec/10_state.md R42 to R45);
and what `execute` leaves alone whatever the command (spec/40_command_execution.md R117). -/

namespace Sys2Proof.Machine

theorem memoriesWf_reset : MemoriesWf State.reset :=
  ⟨Memory.wf_nil _, Memory.wf_nil _, Memory.wf_nil _, fun b => by cases b <;> exact Memory.wf_nil _⟩

theorem memoriesWf_resetBlock (s : State) : MemoriesWf (resetBlock s) :=
  ⟨Memory.wf_nil _, Memory.wf_nil _, Memory.wf_nil _, fun b => by cases b <;> exact Memory.wf_nil _⟩

theorem memoriesWf_storeKs {s : State} (h : MemoriesWf s) {ws : List Word} (hl : ws.length ≤ 2 * s.nMax) :
    MemoriesWf (storeKs ws s) :=
  ⟨Memory.wf_writeFrom h.1 ws (by simpa using hl), h.2.1, h.2.2.1, h.2.2.2⟩

theorem memoriesWf_storeP {s : State} (h : MemoriesWf s) {l : List Nat} (hl : l.length ≤ s.nMax) :
    MemoriesWf (storeP l s) :=
  ⟨h.1, Memory.wf_writeFrom h.2.1 _ (by simpa using hl), h.2.2.1, h.2.2.2⟩

theorem memoriesWf_storeQ {s : State} (h : MemoriesWf s) {l : List (Nat × Nat)} (hl : ∀ e ∈ l, e.1 < s.nMax) :
    MemoriesWf (storeQ l s) := by
  refine ⟨h.1, h.2.1, Memory.wf_writeAll h.2.2.1 _ fun e he => ?_, h.2.2.2⟩
  obtain ⟨e', he', rfl⟩ := List.mem_map.mp he
  exact hl e' he'

theorem memoriesWf_storeBuf {s : State} (h : MemoriesWf s) (b : BufId) {l : List (Nat × Pixel)}
    (hl : ∀ e ∈ l, e.1 < s.nMax) : MemoriesWf (storeBuf b l s) := by
  refine ⟨h.1, h.2.1, h.2.2.1, fun c => ?_⟩
  show Memory.wf ((s.buf.set b ((s.buf.get b).writeAll l)).get c) s.nMax
  by_cases hc : c = b
  · subst hc
    rw [Buffers.get_set_same]
    exact Memory.wf_writeAll (h.2.2.2 c) l hl
  · rw [Buffers.get_set_other _ _ hc]
    exact h.2.2.2 c

/-- A P window write below N_MAX. -/
theorem memoriesWf_writeP {s : State} (h : MemoriesWf s) {i : Nat} (hi : i < s.nMax) (v : Word) :
    MemoriesWf { s with p := s.p.write i v } :=
  ⟨h.1, Memory.wf_write h.2.1 hi v, h.2.2.1, h.2.2.2⟩

/-- A state that agrees with `s` in every field no command writes is `s` with the other fields replaced. -/
theorem eq_frame {s u : State} (h1 : u.ie = s.ie) (h2 : u.busy = s.busy) (h3 : u.done = s.done) (h4 : u.err = s.err)
    (h5 : u.accErr = s.accErr) (h6 : u.code = s.code) (h7 : u.cmd = s.cmd) (h8 : u.seed = s.seed)
    (h9 : u.start = s.start) (h10 : u.width = s.width) (h11 : u.height = s.height) (h12 : u.cap = s.cap)
    (h13 : u.win = s.win) (h14 : u.ainc = s.ainc) (h15 : u.widx = s.widx) (h16 : u.epoch = s.epoch)
    (h17 : u.schedule = s.schedule) (h18 : u.rdata = s.rdata) :
    u = { s with
      ksValid := u.ksValid, pValid := u.pValid, qValid := u.qValid
      xs := u.xs, ks := u.ks, p := u.p, q := u.q, buf := u.buf } := by
  cases s; cases u
  simp only at h1 h2 h3 h4 h5 h6 h7 h8 h9 h10 h11 h12 h13 h14 h15 h16 h17 h18
  subst_vars
  rfl

/-- What `execute` of any command leaves alone. -/
theorem executeOf_frame {i : Instr} {s u : State} (h : executeOf i s = .next u) :
    u = { s with
      ksValid := u.ksValid, pValid := u.pValid, qValid := u.qValid
      xs := u.xs, ks := u.ks, p := u.p, q := u.q, buf := u.buf } := by
  cases i
  case pinv => obtain ⟨-, rfl⟩ := whenInCapacity_cases h; apply eq_frame <;> simp
  case scat => obtain ⟨-, rfl⟩ := whenInCapacity_cases h; apply eq_frame <;> simp
  case gath => obtain ⟨-, rfl⟩ := whenInCapacity_cases h; apply eq_frame <;> simp
  all_goals obtain rfl := Host.Outcome.next.inj h; apply eq_frame <;> simp [storeKeystream]

end Sys2Proof.Machine
end

