-- ==== Sys2Proof/Tests/Slice0.lean ====
section
/-! SUPPORT. Tests against the words and vectors of spec/30_encoding.md and spec/95_test_vectors.md, the smoke test of
well-formedness, and for each statement with hypotheses a state and operands that meet them. -/

namespace Sys2Proof.Tests

open Sys2Proof.Machine

/-! ## Well-formedness: what `HostOp.wf` refuses and admits (V-A1, R61) -/

theorem test_wf_byte_refused : (HostOp.read .byte 0x004#12).wf = false := by decide
theorem test_wf_half_refused : (HostOp.write .half 0x010#12 0#32).wf = false := by decide
theorem test_wf_misaligned_refused : (HostOp.read .word 0x012#12).wf = false := by decide
theorem test_wf_word_admitted : (HostOp.write .word 0x00C#12 1#32).wf = true := by decide

/-! ## Decoding: RSV, T, DST, SRC, OP as R90 lays them out, opcodes from R95 -/

theorem test_decode_nop : decode (0b0#19 ++ 0b0#1 ++ 0b00#2 ++ 0b00#2 ++ 0b00000000#8) = .ok .nop := by decide
theorem test_decode_gen : decode (0b0#19 ++ 0b0#1 ++ 0b00#2 ++ 0b00#2 ++ 0b00000001#8) = .ok .gen := by decide
theorem test_decode_pbuild : decode (0b0#19 ++ 0b0#1 ++ 0b00#2 ++ 0b00#2 ++ 0b00000010#8) = .ok .pbuild := by decide
theorem test_decode_pinv : decode (0b0#19 ++ 0b0#1 ++ 0b00#2 ++ 0b00#2 ++ 0b00000011#8) = .ok .pinv := by decide
theorem test_decode_pchk : decode (0b0#19 ++ 0b0#1 ++ 0b00#2 ++ 0b00#2 ++ 0b00000100#8) = .ok .pchk := by decide
theorem test_decode_scat :
    decode (0b0#19 ++ 0b1#1 ++ 0b11#2 ++ 0b00#2 ++ 0b00010000#8) = .ok (.scat .b0 .b3 .Q) := by decide
theorem test_decode_gath :
    decode (0b0#19 ++ 0b0#1 ++ 0b10#2 ++ 0b01#2 ++ 0b00010001#8) = .ok (.gath .b1 .b2 .P) := by decide
theorem test_decode_cfwd :
    decode (0b0#19 ++ 0b0#1 ++ 0b10#2 ++ 0b01#2 ++ 0b00100000#8) = .ok (.cfwd .b1 .b2) := by decide
theorem test_decode_crev :
    decode (0b0#19 ++ 0b0#1 ++ 0b11#2 ++ 0b10#2 ++ 0b00100001#8) = .ok (.crev .b2 .b3) := by decide
theorem test_decode_enc :
    decode (0b0#19 ++ 0b0#1 ++ 0b01#2 ++ 0b00#2 ++ 0b00110000#8) = .ok (.enc .b0 .b1) := by decide
theorem test_decode_dec :
    decode (0b0#19 ++ 0b0#1 ++ 0b00#2 ++ 0b01#2 ++ 0b00110001#8) = .ok (.dec .b1 .b0) := by decide

/-- The words of section 2.1 as the opcode table numbers them: SCAT b1, b3, Q; DEC b2, b1; four illegal ones. -/
theorem test_table_words :
    [0x00001710, 0x00000931, 0x00000100, 0x00001020, 0x00002010, 0x80000430].map (decodeTableWord 32) =
      [some (.scat .b3 .b1 .Q), some (.dec .b1 .b2), none, none, none, none] := by decide

/-! ## One step -/

/-- A field of the state a step goes on to. -/
def after {α : Type} (f : State → α) : Host.Outcome State Fault Refusal → Option α
  | .next s => some (f s)
  | .fault _ => none
  | .refused _ => none

/-- A block of capacity 8 with an image of `w · h` pixels and the key given, idle, its memories never written. -/
def block (w h : Word) (seed start : Word) : State :=
  { State.reset with cap := 8#32, width := w, height := h, seed := seed, start := start }

/-- What the tests look at: STATUS, ERRCODE. -/
def report (s : State) : Nat × Nat := ((statusWord s).toNat, (errcodeWord s).toNat)

/-- The first `n` pixels of a buffer as WDATA words. -/
def pixels (b : BufId) (n : Nat) (s : State) : List Nat := (bufRange s b n).map fun p => (pixelToWord p).toNat

/-- The pixels of WDATA words, as a memory. -/
def image (ws : List Word) : Memory Pixel := numbered (ws.map wordToPixel)

/-- V-E2: with N = 2^32 NOP succeeds. -/
theorem test_nop_checks_no_size : after report (exec .nop (block 0x10000#32 0x10000#32 0#32 0#32)) = some (0x02, 0) := by
  decide

/-- V-G1. -/
theorem test_gen_seed_1 :
    after (fun s => ((ksRange s 0 2).map BitVec.toNat, s.xs.toNat, report s)) (exec .gen (block 1#32 1#32 1#32 0#32)) =
      some ([0x00042021, 0x04080601], 0x04080601, 0x12, 0) := by decide

/-- V-E8: N = 3 · 0x55555556 is over 2^32 and is not reduced. -/
theorem test_gen_size : after report (exec .gen (block 3#32 0x55555556#32 1#32 0#32)) = some (0x06, 2) := by decide

/-- V-P1: the draws of SEED = 1, N = 5. -/
theorem test_pbuild_five :
    after (fun s => (tableRange s .P 5, report s)) (exec .pbuild { block 5#32 1#32 1#32 0#32 with
      ksValid := true
      ks := numbered [0x00042021#32, 0x04080601#32, 0x9DCCA8C5#32, 0x1255994F#32, 0x8EF917D1#32] }) =
      some ([2, 1, 0, 4, 3], 0x32, 0) := by decide

/-- V-E1: SIZE comes before NO_KS. -/
theorem test_pbuild_size_first :
    after report (exec .pbuild (block 0x10000#32 0x10000#32 0#32 0#32)) = some (0x06, 2) := by decide

/-- R152, the example. -/
theorem test_pinv_eight :
    after (fun s => (tableRange s .Q 8, report s)) (exec .pinv { block 4#32 2#32 0#32 0#32 with
      pValid := true, p := numbered [5#32, 4#32, 6#32, 2#32, 3#32, 7#32, 1#32, 0#32] }) =
      some ([7, 6, 3, 4, 1, 0, 2, 5], 0x62, 0) := by decide

/-- R154, the example: [1, 0, 2] passes, [0, 1, 3] does not, though 3 is below N_MAX. -/
theorem test_pchk_passes :
    after report (exec .pchk { block 3#32 1#32 0#32 0#32 with p := numbered [1#32, 0#32, 2#32] }) =
      some (0x22, 0) := by decide
theorem test_pchk_not_perm :
    after report (exec .pchk { block 3#32 1#32 0#32 0#32 with p := numbered [0#32, 1#32, 3#32] }) =
      some (0x06, 6) := by decide

/-- The state of the examples of R162 and R165: P = [1, 2, 0], BUF[0] = [A, B, C]. -/
def table : State :=
  { block 3#32 1#32 0#32 0#32 with
    pValid := true, p := numbered [1#32, 2#32, 0#32], buf := ⟨image [0xA#32, 0xB#32, 0xC#32], [], [], []⟩ }

theorem test_scat_example : after (pixels .b1 3) (exec (.scat .b0 .b1 .P) table) = some [0xC, 0xA, 0xB] := by decide
/-- V-E6. -/
theorem test_scat_no_table : after report (exec (.scat .b0 .b1 .Q) table) = some (0x26, 5) := by decide
theorem test_gath_example : after (pixels .b1 3) (exec (.gath .b0 .b1 .P) table) = some [0xB, 0xC, 0xA] := by decide

/-- V-CF3 and V-CF4: SEED = 1, N = 3, START = 0x00C0B0A0. -/
def chain : State :=
  { block 3#32 1#32 1#32 0x00C0B0A0#32 with
    ksValid := true
    ks := numbered [0x00042021#32, 0x04080601#32, 0x9DCCA8C5#32, 0x1255994F#32, 0x8EF917D1#32, 0x2C6F5BD0#32] }

theorem test_cfwd_three :
    after (pixels .b1 3) (exec (.cfwd .b0 .b1) { chain with
      buf := ⟨image [0x00030201#32, 0x00060504#32, 0x00090807#32], [], [], []⟩ }) =
      some [0x008CFDEE, 0x005B293B, 0x0082F1EC] := by decide
/-- V-E4: ALIAS comes before NO_KS. -/
theorem test_cfwd_alias_first :
    after report (exec (.cfwd .b0 .b0) (block 2#32 1#32 0#32 0#32)) = some (0x06, 3) := by decide
theorem test_crev_three :
    after (pixels .b2 3) (exec (.crev .b1 .b2) { chain with
      buf := ⟨[], image [0x008CFDEE#32, 0x005B293B#32, 0x0082F1EC#32], [], []⟩ }) =
      some [0x00030201, 0x00060504, 0x00090807] := by decide

/-- V-ED5. -/
theorem test_enc_zero_seed :
    after (fun s => (pixels .b1 3 s, tableRange s .P 3, report s)) (exec (.enc .b0 .b1)
      { block 3#32 1#32 0#32 0x00030201#32 with
        buf := ⟨image [0x00030201#32, 0x00060504#32, 0x00090807#32], [], [], []⟩ }) =
      some ([0x000A0A06, 0x00090807, 0x000F0D03], [1, 2, 0], 0x32, 0) := by decide
/-- R194 on the result of V-ED5. -/
theorem test_dec_zero_seed :
    after (fun s => (pixels .b2 3 s, report s)) (exec (.dec .b1 .b2)
      { block 3#32 1#32 0#32 0x00030201#32 with
        buf := ⟨[], image [0x000A0A06#32, 0x00090807#32, 0x000F0D03#32], [], []⟩ }) =
      some ([0x00030201, 0x00060504, 0x00090807], 0x72, 0) := by decide
/-- V-ED9. -/
theorem test_enc_alias : after report (exec (.enc .b2 .b2) (block 2#32 1#32 0#32 0#32)) = some (0x06, 3) := by decide

/-- V-E9: an illegal word aborts with code 1. -/
theorem test_illegal_word :
    after report (step { block 2#32 1#32 0#32 0#32 with busy := true, cmd := 0x000000FF#32 }) = some (0x06, 1) := by
  decide

/-! ### Host accesses (section 2.8) -/

/-- V-A2. -/
theorem test_read_unmapped :
    after (fun s => (s.rdata.toNat, s.accErr)) (hostRead 0x040#12 { State.reset with rdata := 7#32 }) =
      some (0, true) := by decide
/-- V-A5. -/
theorem test_write_ks_window :
    after (fun s => (s.ks, s.accErr, s.widx.toNat))
      (hostWrite 0x034#12 5#32 { block 0#32 0#32 0#32 0#32 with win := 4#3, ainc := true }) = some ([], true, 1) := by
  decide
/-- V-A7: bits 31:24 of a pixel word are ignored. -/
theorem test_write_pixel :
    after (fun s => readBuf s .b0 0) (hostWrite 0x034#12 0xFF332211#32 (block 0#32 0#32 0#32 0#32)) =
      some ⟨0x11#8, 0x22#8, 0x33#8⟩ := by decide
/-- V-A10: a CMD write while busy is dropped; STATUS reads 0x09. -/
theorem test_cmd_write_busy :
    after (fun s => ((statusWord s).toNat, s.cmd.toNat))
      (hostWrite 0x00C#12 0#32 { State.reset with busy := true, cmd := 1#32 }) = some (0x09, 1) := by decide
/-- V-A12: STATUS 0x0E, W1C 0x0E; ERRCODE stays. -/
theorem test_w1c :
    after report (hostWrite 0x004#12 0xE#32
      { State.reset with done := true, err := true, accErr := true, code := .illegal }) = some (0, 1) := by decide

/-! ## Witnesses: states and operands that meet the hypotheses of the statements

`full` is a block whose image of N = 2 pixels fills its capacity, N = N_MAX = 2, with all three valid bits 1 (W1 of
spec/95_test_vectors.md); `tooBig` has one pixel more than its capacity. -/

def full (busy : Bool) (cmd : Word) (schedule : List Turn) : State :=
  { State.reset with
    busy := busy, cmd := cmd, schedule := schedule, cap := 2#32, width := 2#32, height := 1#32, seed := 12345#32
    ksValid := true, pValid := true, qValid := true
    ks := numbered [0xC6E5747A#32, 0x652A09AF#32, 0xA7E08FA0#32, 0x748E41EA#32]
    p := numbered [0#32, 1#32], q := numbered [0#32, 1#32], buf := ⟨image [0x001E140A#32, 0x003C3228#32], [], [], []⟩ }

/-- The same, idle and with no turn scheduled. -/
abbrev idle : State := full false 0#32 []

def tooBig : State := { idle with width := 3#32, ksValid := false, pValid := false, qValid := false }

/-- The same as `idle` with no valid bit. -/
def bare : State := { idle with ksValid := false, pValid := false, qValid := false }

/-- N = 0 with all three valid bits 1. -/
def empty : State := { idle with width := 0#32 }

/-- A table that is no permutation of [0, 2). -/
def broken : State := { bare with p := numbered [1#32, 1#32] }

/-- A state that no run reaches: P_VALID = 1 over a word that is no index below N_MAX. -/
def wild : State := { idle with p := numbered [0#32, 2#32] }

theorem holdsP_idle : IsBijection idle .P := by unfold IsBijection; decide
theorem holdsQ_idle : IsBijection idle .Q := by unfold IsBijection; decide
theorem notP_broken : ¬ IsBijection broken .P := by unfold IsBijection; decide

theorem inv_full (busy : Bool) (cmd : Word) (schedule : List Turn) : Inv (full busy cmd schedule) where
  cap := (⟨by decide, by decide⟩ : CapInRange idle)
  mem := ⟨(by decide : idle.ks.wf (2 * idle.nMax)), (by decide : idle.p.wf idle.nMax), (by decide : idle.q.wf idle.nMax),
    (by intro b; cases b <;> decide : ∀ b, (idle.buf.get b).wf idle.nMax)⟩
  ksOk := fun _ => (⟨by decide, by decide⟩ : idle.N ≤ idle.nMax ∧ ksRange idle 0 (2 * idle.N) = generate idle.seed (2 * idle.N))
  pOk := fun _ => (⟨by decide, holdsP_idle⟩ : idle.N ≤ idle.nMax ∧ IsBijection idle .P)
  qOk := fun _ => (⟨rfl, by decide⟩ : idle.pValid = true ∧ ∀ i < idle.N, (readQ idle (readP idle i).toNat).toNat = i)
  status := ⟨fun _ => ⟨rfl, rfl, rfl⟩, fun h => by cases h⟩

/-- No check of `SCAT b1, b0, Q` fails where it is the command outstanding in `full`. -/
theorem passes_scat (c : ErrCode) : ¬ CheckFails (.scat .b0 .b1 .Q) (full true (encode (.scat .b0 .b1 .Q)) []) c := by
  cases c
  case size => rintro ⟨-, h⟩; exact absurd h (by decide)
  all_goals simp [CheckFails, full]

theorem witness_DecodeInvertsEncode :
    (Instr.gath .b3 .b3 .Q).wf = true ∧ decode 0x00001F11#32 = .ok (.gath .b3 .b3 .Q) := by decide

/-- Each opcode group of the pseudocode, at the top of its operand fields, and an OP value it does not list. -/
theorem witness_DecodeFollowsPseudocode :
    (0x00000004#32).toNat % 256 = 0x04 ∧ (0x00001F11#32).toNat % 256 = 0x11 ∧ (0x00000F31#32).toNat % 256 = 0x31 ∧
    ((0x00001F11#32).toNat / 2 ^ 8 % 4, BufId.b3) ∈ [(0, BufId.b0), (1, .b1), (2, .b2), (3, .b3)] ∧
    ((0x00001F11#32).toNat / 2 ^ 10 % 4, BufId.b3) ∈ [(0, BufId.b0), (1, .b1), (2, .b2), (3, .b3)] ∧
    ((0x00001F11#32).toNat / 2 ^ 12 % 2, Table.Q) ∈ [(0, Table.P), (1, .Q)] ∧
    (0x00000005#32).toNat % 256 ∉ [0x00, 0x01, 0x02, 0x03, 0x04, 0x10, 0x11, 0x20, 0x21, 0x30, 0x31] ∧
    decode 0x00001F11#32 = .ok (.gath .b3 .b3 .Q) := by decide

theorem witness_StepRunsDecodedCommand :
    ((full true 2#32 []).busy = true ∧ decode (full true 2#32 []).cmd = .ok .pbuild ∧ (full true 2#32 []).schedule = []) ∧
    (full true 2#32 [.block, .reset]).busy = true ∧ decode (full true 2#32 [.block, .reset]).cmd = .ok .pbuild ∧
      (full true 2#32 [.block, .reset]).schedule = .block :: [.reset] := by decide

theorem witness_CmdWriteAcceptsWord : idle.busy = false ∧ (full true 2#32 []).busy = true := by decide

theorem witness_IllegalWordAborts : idle.busy = false ∧ ∀ i, decode 0xFF#32 ≠ .ok i :=
  ⟨rfl, fun _ h => by cases h⟩

theorem witness_AbortIsPrecise :
    (∃ t, (full true 1#32 []).err = false ∧ exec (.enc .b0 .b0) (full true 1#32 []) = .next t ∧ t.err = true) ∧
    (full true 0x1001#32 []).busy = true ∧ ∀ i, decode (full true 0x1001#32 []).cmd ≠ .ok i :=
  ⟨⟨_, rfl, rfl, rfl⟩, rfl, fun _ h => by cases h⟩

theorem witness_PassedChecksSucceed :
    Inv (full true (encode (.scat .b0 .b1 .Q)) []) ∧ (full true (encode (.scat .b0 .b1 .Q)) []).busy = true ∧
      ∀ c, ¬ CheckFails (.scat .b0 .b1 .Q) (full true (encode (.scat .b0 .b1 .Q)) []) c :=
  ⟨inv_full _ _ _, rfl, passes_scat⟩

theorem witness_FirstFailingCheckGivesCode :
    bare.err = false ∧ (CheckFails .pbuild bare .noKs ∧
      ∀ c, (codeNumber c).toNat < (codeNumber .noKs).toNat → ¬ CheckFails .pbuild bare c) ∧
    (bare.busy = false ∧ ∀ i, decode 0xFF#32 ≠ .ok i) ∧ (0x00002010#32).toNat % 256 = 0x10 ∧ (0x00002010#32).getLsbD 13 = true := by
  refine ⟨rfl, ⟨⟨rfl, .inl rfl⟩, fun c hc => ?_⟩, ⟨rfl, fun _ h => by cases h⟩, by decide, by decide⟩
  cases c
  case size => rintro ⟨-, h⟩; exact absurd h (by decide)
  all_goals first | exact absurd hc (by decide) | simp [CheckFails]

theorem witness_CommandsKeepHostRegisters : ∃ t, exec (.dec .b0 .b1) idle = .next t := ⟨_, rfl⟩

theorem witness_NopOnlyCompletes : idle.err = false ∧ ∃ t, exec .nop idle = .next t := ⟨rfl, _, rfl⟩

theorem witness_GenWritesKeystream : idle.N = idle.nMax ∧ tooBig.N = tooBig.nMax + 1 := by decide

theorem witness_PbuildBuildsPermutation :
    (idle.N = idle.nMax ∧ idle.ksValid = true) ∧ tooBig.N = tooBig.nMax + 1 ∧ (bare.N ≤ bare.nMax ∧ bare.ksValid = false) := by
  decide

theorem witness_PinvInvertsPermutation :
    (idle.N = idle.nMax ∧ idle.pValid = true ∧ IsBijection idle .P) ∧ tooBig.N = tooBig.nMax + 1 ∧
      (bare.N ≤ bare.nMax ∧ bare.pValid = false) :=
  ⟨⟨by decide, rfl, holdsP_idle⟩, by decide, by decide, rfl⟩

theorem witness_PchkChecksPermutation :
    (idle.N = idle.nMax ∧ IsBijection idle .P) ∧ tooBig.N = tooBig.nMax + 1 ∧
    (broken.N ≤ broken.nMax ∧ ¬ IsBijection broken .P) ∧ (Inv idle ∧ idle.pValid = true) ∧
    broken.err = false ∧ AbortsWith .pchk broken .notPerm :=
  ⟨⟨by decide, holdsP_idle⟩, by decide, ⟨by decide, notP_broken⟩, ⟨inv_full _ _ _, rfl⟩, rfl, rfl⟩

/-- The last clause of PCHK's statement, in a state with the invariant. -/
theorem witness_PchkChecksPermutation_abort : Inv broken ∧ broken.err = false ∧ AbortsWith .pchk broken .notPerm := by
  refine ⟨⟨⟨by decide, by decide⟩, ⟨by decide, by decide, by decide, ?_⟩, ?_, ?_, ?_, ?_⟩, rfl, rfl⟩
  · intro b; cases b <;> decide
  · intro h; cases h
  · intro h; cases h
  · intro h; cases h
  · exact ⟨fun h => absurd h (by decide), fun h => absurd h (by decide)⟩

theorem witness_ScatScattersBuffer :
    (idle.N = idle.nMax ∧ BufId.b0 ≠ .b3 ∧ tableValid idle .P = true ∧ tableValid idle .Q = true ∧
      IsBijection idle .P ∧ IsBijection idle .Q) ∧ tooBig.N = tooBig.nMax + 1 ∧
    (bare.N ≤ bare.nMax ∧ BufId.b0 ≠ .b3 ∧ tableValid bare .P = false ∧ tableValid bare .Q = false) :=
  ⟨⟨by decide, by decide, rfl, rfl, holdsP_idle, holdsQ_idle⟩, by decide, by decide, by decide, rfl, rfl⟩

/-- GATH has SCAT's hypotheses. -/
theorem witness_GathGathersBuffer :
    (idle.N = idle.nMax ∧ BufId.b3 ≠ .b0 ∧ tableValid idle .P = true ∧ tableValid idle .Q = true ∧
      IsBijection idle .P ∧ IsBijection idle .Q) ∧ tooBig.N = tooBig.nMax + 1 ∧
    (bare.N ≤ bare.nMax ∧ BufId.b3 ≠ .b0 ∧ tableValid bare .P = false ∧ tableValid bare .Q = false) :=
  ⟨⟨by decide, by decide, rfl, rfl, holdsP_idle, holdsQ_idle⟩, by decide, by decide, by decide, rfl, rfl⟩

theorem witness_CfwdChainsForward :
    (idle.N = idle.nMax ∧ BufId.b0 ≠ .b3 ∧ idle.ksValid = true) ∧ tooBig.N = tooBig.nMax + 1 ∧
      (bare.N ≤ bare.nMax ∧ BufId.b0 ≠ .b3 ∧ bare.ksValid = false) := by decide

/-- CREV has CFWD's hypotheses. -/
theorem witness_CrevChainsReverse :
    (idle.N = idle.nMax ∧ BufId.b3 ≠ .b0 ∧ idle.ksValid = true) ∧ tooBig.N = tooBig.nMax + 1 ∧
      (bare.N ≤ bare.nMax ∧ BufId.b3 ≠ .b0 ∧ bare.ksValid = false) := by decide

theorem witness_EncEncryptsImage : (bare.N = bare.nMax ∧ BufId.b0 ≠ .b3) ∧ tooBig.N = tooBig.nMax + 1 := by decide

theorem witness_DecDecryptsImage : (bare.N = bare.nMax ∧ BufId.b3 ≠ .b0) ∧ tooBig.N = tooBig.nMax + 1 := by decide

theorem witness_EmptyImageCommands :
    empty.N = 0 ∧ empty.ksValid = true ∧ empty.pValid = true ∧ BufId.b0 ≠ .b1 ∧ tableValid empty .P = true ∧
      tableValid empty .Q = true := by decide

theorem witness_FaultOnlyOutsideTable :
    (∀ c, ¬ CheckFails .pinv wild c) ∧ wild.N = 2 ∧ wild.nMax ≤ (readTable wild .P 1).toNat := by
  refine ⟨fun c => ?_, by decide, by decide⟩
  cases c
  case size => rintro ⟨-, h⟩; exact absurd h (by decide)
  all_goals simp [CheckFails, wild, full]

theorem witness_GenerateIteratesUpdate : (2 : Nat) ≤ 4 ∧ (4 : Nat) ≤ 4 := by decide

theorem witness_ZeroSeedGivesZeroStream :
    ({ idle with seed := 0#32 } : State).seed = 0#32 ∧ ({ idle with seed := 0#32 } : State).N = 2 ∧ idle.nMax = 2 := by
  decide

theorem witness_XsIsBijection : (1#32 : Word) ≠ 0#32 := by decide

theorem witness_BuildIsBijection :
    ∃ t, idle.err = false ∧ exec .pbuild idle = .next t ∧ t.err = false := ⟨_, rfl, rfl, rfl⟩

theorem witness_BuildIgnoresFirstDraw :
    ∃ (s' : State) (m : Memory Word), s' = { idle with ks := m } ∧ (∀ k, k ≠ 0 → readKs s' k = readKs idle k) ∧
      readKs s' 0 ≠ readKs idle 0 := by
  refine ⟨_, idle.ks.write 0 7#32, rfl, fun k hk => ?_, by decide⟩
  simp only [readKs, Memory.stored_write_other _ _ hk]

theorem witness_IsPermMeansBijection :
    [2, 0, 1].length = 3 ∧ isPerm [2, 0, 1] 3 = true ∧ isPerm [2, 0, 3] 3 = false := by decide

theorem witness_InvertIsInverse : [1, 2, 0].Perm (List.range 3) := by decide

theorem witness_ScatterRoundTrips :
    [1, 0].Perm (List.range [(⟨1#8, 2#8, 3#8⟩ : Pixel), ⟨4#8, 5#8, 6#8⟩].length) ∧ [1, 0][0]? = some 1 := by decide

theorem witness_UnscatterIsScatterByInverse :
    [1, 0].Perm (List.range [(⟨1#8, 2#8, 3#8⟩ : Pixel), ⟨4#8, 5#8, 6#8⟩].length) ∧
    Inv idle ∧ idle.pValid = true ∧ idle.qValid = true ∧ BufId.b0 ≠ .b1 :=
  ⟨by decide, inv_full _ _ _, rfl, rfl, by decide⟩

theorem witness_OctetsAndLaneWidth :
    (0x00C0B0A0#32).toNat % 2 ^ 24 = (0xFFC0B0A0#32).toNat % 2 ^ 24 ∧
      [0x11223344#32, 0xFF#32].map lo8 = [0x44#32, 0xAAFF#32].map lo8 := by decide

theorem witness_LanesAreIndependent :
    [(⟨1#8, 2#8, 3#8⟩ : Pixel)].map Pixel.c0 = [(⟨1#8, 9#8, 9#8⟩ : Pixel)].map Pixel.c0 ∧
      Pixel.c0 (startOctets 0x00030201#32) = Pixel.c0 (startOctets 0x00FFFF01#32) := by decide

theorem witness_ForwardClosedForm :
    [0x77#32, 0x88#32].length = [(⟨1#8, 2#8, 3#8⟩ : Pixel), ⟨4#8, 5#8, 6#8⟩].length ∧
    1 < [(⟨1#8, 2#8, 3#8⟩ : Pixel), ⟨4#8, 5#8, 6#8⟩].length ∧
    [(⟨1#8, 2#8, 3#8⟩ : Pixel), ⟨4#8, 5#8, 6#8⟩][1]? ≠ some ⟨4#8, 5#8, 7#8⟩ ∧
    (forward [⟨1#8, 2#8, 3#8⟩, ⟨4#8, 5#8, 6#8⟩] [0x77#32, 0x88#32] 0#32)[1]? = some ⟨250#8, 248#8, 250#8⟩ := by decide

theorem witness_ChainRoundTrip :
    [0x77#32, 0x88#32].length = [(⟨1#8, 2#8, 3#8⟩ : Pixel), ⟨4#8, 5#8, 6#8⟩].length := by decide

theorem witness_ReverseIsLocal : (2 ≠ 0 ∧ 2 ≠ 0 + 1) ∧ (1 : Nat) ≠ 0 := by decide

/-- V-CR6: an all-zero result with a nonzero keystream. -/
theorem witness_ZeroImageCondition :
    [0x77#32, 0x12345600#32, 0xFFFFFF00#32] ≠ [] ∧
    startOctets 0x00777777#32 = ⟨lo8 0x77#32, lo8 0x77#32, lo8 0x77#32⟩ ∧
    ∀ k ∈ [0x77#32, 0x12345600#32, 0xFFFFFF00#32].drop 1, lo8 k = 0#8 := by
  refine ⟨by simp, by decide, ?_⟩
  simp only [List.drop, List.mem_cons, List.not_mem_nil, or_false, forall_eq_or_imp, forall_eq]
  decide

theorem witness_EncEqualsItsDecomposition :
    bare.busy = false ∧ bare.N = bare.nMax ∧ BufId.b0 ≠ .b1 ∧ BufId.b2 ≠ .b0 ∧ BufId.b2 ≠ .b1 := by decide

theorem witness_DecEqualsItsDecomposition :
    bare.busy = false ∧ bare.N = bare.nMax ∧ BufId.b1 ≠ .b0 ∧ BufId.b3 ≠ .b1 ∧ BufId.b3 ≠ .b0 := by decide

/-- Also with the third buffer the first one. -/
theorem witness_DecryptUndoesEncrypt :
    bare.busy = false ∧ bare.N = bare.nMax ∧ BufId.b0 ≠ .b1 ∧ BufId.b1 ≠ .b0 ∧
    ∃ t, command (.enc .b0 .b1) bare = .next t ∧ t.busy = false ∧ t.seed = bare.seed ∧ t.start = bare.start ∧
      t.width = bare.width ∧ t.height = bare.height ∧ t.cap = bare.cap ∧
      bufRange t .b1 bare.N = bufRange t .b1 bare.N :=
  ⟨rfl, by decide, by decide, by decide, _, rfl, rfl, rfl, rfl, rfl, rfl, rfl, rfl⟩

theorem witness_StalePermutationStaysValid : idle.busy = false ∧ idle.N = idle.nMax ∧ idle.pValid = true := by decide

theorem witness_CapIsConstant : ∃ t, step (full true 1#32 []) = .next t := ⟨_, rfl⟩

theorem witness_ControlAndStatusWrites :
    Inv (full true 1#32 []) ∧ Completes (full true 1#32 []) .gen ∧ (0x2#32).getLsbD 1 = true :=
  ⟨inv_full _ _ _, ⟨rfl, rfl, .inl rfl⟩, by decide⟩

theorem witness_ConfigurationWrites : idle.busy = false := rfl

/-- The window `win` of `idle` at element `i`. -/
def window (win : BitVec 3) (i : Word) : State := { idle with win := win, widx := i, ainc := true }

/-- Each way an access is dropped, at the lowest unmapped offset and next to a mapped one; among them a narrow access at
0x034 and a misaligned one at 0x037, to a readable element with AINC = 1 (notes/assumptions/9.md). -/
theorem witness_DroppedAccesses :
    AccessSize.half ≠ .word ∧ (0x036#12).toNat % 4 ≠ 0 ∧ 0x038 ≤ (0x038#12).toNat ∧
    (AccessSize.byte ≠ .word ∧ (0x037#12).toNat % 4 ≠ 0 ∧ (window 5#3 1#32).busy = false ∧
      (window 5#3 1#32).ainc = true ∧ (window 5#3 1#32).widx.toNat < windowRange (window 5#3 1#32) ∧
      (∃ t, hostStep (.read .byte 0x034#12) (window 5#3 1#32) = .next t) ∧
      ∃ t, hostStep (.write .word 0x037#12 7#32) (window 5#3 1#32) = .next t) ∧
    idle.busy = false ∧ idle.accErr = false ∧ ∃ t, hostWrite 0x02C#12 0xFFFFFFFF#32 idle = .next t :=
  ⟨by decide, by decide, by decide, ⟨by decide, by decide, rfl, rfl, by decide, ⟨_, rfl⟩, _, rfl⟩, rfl, rfl, _, rfl⟩

/-- The last element of each window and the first one past it; window 7 has none. -/
theorem witness_WdataReadFollowsPseudocode :
    (full true 0#32 []).busy = true ∧
    (∀ e ∈ [(0#3, BufId.b0), (1#3, .b1), (2#3, .b2), (3#3, .b3)],
      (window e.1 1#32).busy = false ∧ (window e.1 1#32).win = e.1 ∧ (window e.1 1#32).widx.toNat + 1 = idle.nMax) ∧
    ((window 4#3 3#32).win = 4#3 ∧ (window 4#3 3#32).widx.toNat + 1 = 2 * idle.nMax) ∧
    ((window 5#3 1#32).win = 5#3 ∧ (window 5#3 1#32).widx.toNat + 1 = idle.nMax) ∧
    ((window 6#3 1#32).win = 6#3 ∧ (window 6#3 1#32).widx.toNat + 1 = idle.nMax) ∧
    (window 7#3 0#32).win = 7#3 ∧ 2 * idle.nMax = (window 4#3 4#32).widx.toNat ∧
      idle.nMax = (window 5#3 2#32).widx.toNat := by decide

theorem witness_WdataWriteFollowsPseudocode :
    (full true 0#32 []).busy = true ∧
    (∀ e ∈ [(0#3, BufId.b0), (1#3, .b1), (2#3, .b2), (3#3, .b3)],
      (window e.1 1#32).busy = false ∧ (window e.1 1#32).win = e.1 ∧ (window e.1 1#32).widx.toNat + 1 = idle.nMax) ∧
    (window 5#3 1#32).win = 5#3 ∧ (window 4#3 0#32).win = 4#3 ∧ (window 6#3 0#32).win = 6#3 ∧
    (window 7#3 0#32).win = 7#3 ∧ idle.nMax = (window 0#3 2#32).widx.toNat := by decide

theorem witness_BusyAccesses :
    (full true 0#32 []).busy = true ∧ ∃ t, hostStep (.write .word 0x010#12 7#32) (full true 0#32 []) = .next t :=
  ⟨rfl, _, rfl⟩

theorem witness_ApertureAtBase : Config.base - 1 < Config.base ∨ Config.base + 4096 ≤ Config.base + 4096 := by simp

theorem witness_IrqFollowsDoneAndIe :
    (∃ t, (full true 1#32 []).busy = true ∧ blockStep (full true 1#32 []) = .next t) ∧
    (∃ t, hostWrite 0x000#12 1#32 idle = .next t) ∧ (∃ t, hostWrite 0x000#12 0#32 idle = .next t) ∧
    (∃ t, hostWrite 0x004#12 2#32 idle = .next t) ∧ (∃ t, idle.busy = false ∧ hostWrite 0x00C#12 9#32 idle = .next t) ∧
    (∃ t, resetStep idle = .next t) ∧
    (∃ t, step { full true 1#32 [] with ie := true } = .next t ∧ irq { full true 1#32 [] with ie := true } = false ∧
      irq t = true) ∧
    ∃ t, step { full false 0#32 [.host (.write .word 0x000#12 1#32)] with done := true } = .next t ∧
      irq { full false 0#32 [.host (.write .word 0x000#12 1#32)] with done := true } = false ∧ irq t = true :=
  ⟨⟨_, rfl, rfl⟩, ⟨_, rfl⟩, ⟨_, rfl⟩, ⟨_, rfl⟩, ⟨_, rfl, rfl⟩, ⟨_, rfl⟩, ⟨_, rfl, rfl, rfl⟩, ⟨_, rfl, rfl, rfl⟩⟩

theorem witness_StepKeepsInvariant :
    Inv (full true (encode (.dec .b0 .b1)) []) ∧ ∃ t, step (full true (encode (.dec .b0 .b1)) []) = .next t :=
  ⟨inv_full _ _ _, _, rfl⟩

theorem witness_InvariantStateSteps : Inv (full true 3#32 [.block]) := inv_full _ _ _

theorem witness_OutstandingCommandCompletes :
    Inv (full true 1#32 [.host (.read .word 0x004#12), .block]) ∧
    (full true 1#32 [.host (.read .word 0x004#12), .block]).busy = true ∧
    ∀ x ∈ (full true 1#32 [.host (.read .word 0x004#12), .block]).schedule, x ≠ Turn.reset :=
  ⟨inv_full _ _ _, rfl, by decide⟩

/-- An ENC that changes XS, and a write of the P window. -/
theorem witness_OnlyNamedWritersStore :
    (∃ t, Inv (full true (encode (.enc .b0 .b1)) []) ∧ step (full true (encode (.enc .b0 .b1)) []) = .next t ∧
      (∀ rest, (full true (encode (.enc .b0 .b1)) []).schedule ≠ .reset :: rest) ∧
      t.xs ≠ (full true (encode (.enc .b0 .b1)) []).xs) ∧
    ∃ t, step { full false 0#32 [.host (.write .word 0x034#12 7#32)] with win := 5#3 } = .next t ∧
      readP t 0 ≠ readP (full false 0#32 []) 0 :=
  ⟨⟨_, inv_full _ _ _, rfl, fun _ h => (by cases h), by decide⟩, _, rfl, by decide⟩

end Sys2Proof.Tests
end

section
/-! The registers after RST, and CAP through the host's accesses, the commands and a whole step: the obligations O45 and
O54 (spec/10_state.md R31, R50). -/

namespace Sys2Proof.Machine

/-! ## The state after RST, field by field (R50, R51, R230) -/

section resetBlock
variable (s : State)

@[simp] theorem resetBlock_ie : (resetBlock s).ie = false := rfl
@[simp] theorem resetBlock_busy : (resetBlock s).busy = false := rfl
@[simp] theorem resetBlock_done : (resetBlock s).done = false := rfl
@[simp] theorem resetBlock_err : (resetBlock s).err = false := rfl
@[simp] theorem resetBlock_accErr : (resetBlock s).accErr = false := rfl
@[simp] theorem resetBlock_ksValid : (resetBlock s).ksValid = false := rfl
@[simp] theorem resetBlock_pValid : (resetBlock s).pValid = false := rfl
@[simp] theorem resetBlock_qValid : (resetBlock s).qValid = false := rfl
@[simp] theorem resetBlock_code : (resetBlock s).code = .clear := rfl
@[simp] theorem resetBlock_cmd : (resetBlock s).cmd = 0#32 := rfl
@[simp] theorem resetBlock_seed : (resetBlock s).seed = 0#32 := rfl
@[simp] theorem resetBlock_start : (resetBlock s).start = 0#32 := rfl
@[simp] theorem resetBlock_width : (resetBlock s).width = 0#32 := rfl
@[simp] theorem resetBlock_height : (resetBlock s).height = 0#32 := rfl
@[simp] theorem resetBlock_cap : (resetBlock s).cap = s.cap := rfl
@[simp] theorem resetBlock_xs : (resetBlock s).xs = 0#32 := rfl
@[simp] theorem resetBlock_win : (resetBlock s).win = 0#3 := rfl
@[simp] theorem resetBlock_ainc : (resetBlock s).ainc = false := rfl
@[simp] theorem resetBlock_widx : (resetBlock s).widx = 0#32 := rfl
@[simp] theorem resetBlock_ks : (resetBlock s).ks = [] := rfl
@[simp] theorem resetBlock_p : (resetBlock s).p = [] := rfl
@[simp] theorem resetBlock_q : (resetBlock s).q = [] := rfl
@[simp] theorem resetBlock_buf : (resetBlock s).buf = ⟨[], [], [], []⟩ := rfl
@[simp] theorem resetBlock_epoch : (resetBlock s).epoch = s.epoch + 1 := rfl
@[simp] theorem resetBlock_schedule : (resetBlock s).schedule = s.schedule := rfl
@[simp] theorem resetBlock_rdata : (resetBlock s).rdata = s.rdata := rfl

@[simp] theorem resetBlock_N : (resetBlock s).N = 0 := rfl
@[simp] theorem resetBlock_irq : irq (resetBlock s) = false := rfl
end resetBlock

/-! ## CAP is in no operation's reach (R31) -/

@[simp] theorem advance_cap (s : State) : (advance s).cap = s.cap := by unfold advance; split <;> rfl

/-- Dropped or taken, a write that waits for BUSY = 0 keeps CAP when its effect does. -/
theorem whenIdle_cap {s t : State} (h : t.cap = s.cap) : (whenIdle s t).cap = s.cap := by
  unfold whenIdle; split
  · exact dropAccess_cap s
  · exact h

@[simp] theorem storeWindow_cap (v : Word) (s : State) : (storeWindow v s).cap = s.cap := by
  unfold storeWindow; split
  · exact dropAccess_cap s
  · exact setValid_cap _ _ _ _
  · exact dropAccess_cap s
  · split
    · exact storeBuf_cap _ _ _
    · exact dropAccess_cap s

@[simp] theorem readWdata_cap (s : State) : (readWdata s).cap = s.cap := by
  unfold readWdata; split
  · simp
  · split
    · split <;> simp
    · simp

@[simp] theorem writeWdata_cap (v : Word) (s : State) : (writeWdata v s).cap = s.cap := by
  unfold writeWdata; split
  · simp
  · split <;> simp

@[simp] theorem readReg_cap (s : State) (r : Reg) : (readReg s r).cap = s.cap := by
  cases r
  case wdata => exact readWdata_cap s
  all_goals exact answer_cap s _

@[simp] theorem writeReg_cap (v : Word) (s : State) (r : Reg) : (writeReg v s r).cap = s.cap := by
  cases r
  case ctrl => rfl
  case status => exact clearStatus_cap s v
  case wdata => exact writeWdata_cap v s
  case errcode | npix | cap | xs => exact dropAccess_cap s
  all_goals exact whenIdle_cap rfl

@[simp] theorem hostAccess_cap (op : HostOp) (s : State) : (hostAccess op s).cap = s.cap := by
  obtain ⟨-, h | h⟩ | ⟨r, -, h⟩ | ⟨r, v, -, h⟩ := hostAccess_cases op s <;> simp [h]

theorem executeOf_cap {i : Instr} {s u : State} (h : executeOf i s = .next u) : u.cap = s.cap := by
  rw [executeOf_frame h]

theorem exec_cap {i : Instr} {s t : State} (h : exec i s = .next t) : t.cap = s.cap := by
  obtain ⟨c, -, rfl⟩ | ⟨-, u, hu, rfl⟩ := exec_cases h
  · simp
  · simp [executeOf_cap hu]

/-- No turn of the block, the host or RST changes CAP. -/
theorem step_cap {s t : State} (h : step s = .next t) : t.cap = s.cap := by
  obtain ⟨-, -, rfl⟩ | ⟨i, -, he⟩ | ⟨-, -, -, rfl⟩ | ⟨op, -, rfl⟩ | ⟨-, rfl⟩ := step_cases h
  case inr.inl => simpa using exec_cap he
  all_goals simp

/-! ## N_MAX (R9) -/

theorem one_le_configNMax : 1 ≤ Config.nMax := Nat.le_add_left 1 _

theorem configNMax_le : Config.nMax ≤ 2 ^ 31 := Config.capacityLess1.isLt

/-- N_MAX fits in the 32 bits of CAP. -/
theorem reset_nMax : State.reset.nMax = Config.nMax := by
  have hle := configNMax_le
  have hmod : State.reset.nMax = Config.nMax % 2 ^ 32 := BitVec.toNat_ofNat _ _
  omega

/-- Settles O45: every kind of turn keeps CAP, and its reset value N_MAX fits in the register. -/
theorem capIsConstant : Obligations.CapIsConstant :=
  ⟨reset_nMax, one_le_configNMax, configNMax_le, fun _ _ => step_cap, hostRead_eq .cap⟩

/-- Settles O54: the reset step goes to `resetBlock s`, whose fields are the reset column's values; with WIDTH and HEIGHT 0
N is 0, with IE and DONE 0 so is IRQ. -/
theorem resetClearsRegisters : Obligations.ResetClearsRegisters :=
  fun s => ⟨resetBlock s, resetStep_eq s, by simp⟩

end Sys2Proof.Machine
end

section
/-! The host's window on the memories: a pixel as a word, and reads and writes of WDATA, the obligations O48, O49 and O50
(spec/20_memory.md R62 to R70). -/

namespace Sys2Proof.Machine

/-! ## A pixel as a word (R70) -/

/-- Appending is adding with the left part moved up by the right part's width. -/
theorem toNat_append_eq_add {m n : Nat} (x : BitVec m) (y : BitVec n) :
    (x ++ y).toNat = 2 ^ n * x.toNat + y.toNat := by
  rw [BitVec.toNat_append, Nat.shiftLeft_eq, Nat.mul_comm, Nat.two_pow_add_eq_or_of_lt y.isLt]

theorem toNat_pixelToWord (p : Pixel) :
    (pixelToWord p).toNat = p.c0.toNat + 2 ^ 8 * p.c1.toNat + 2 ^ 16 * p.c2.toNat := by
  simp only [pixelToWord, toNat_append_eq_add, BitVec.toNat_ofNat]
  omega

/-- Each lane of a word's pixel is one digit of the word to base 256. -/
theorem wordToPixel_eq (w : Word) :
    wordToPixel w = ⟨BitVec.ofNat 8 (w.toNat % 256), BitVec.ofNat 8 (w.toNat / 256 % 256),
      BitVec.ofNat 8 (w.toNat / 65536 % 256)⟩ := by
  simp [wordToPixel, BitVec.toNat_eq, Nat.shiftRight_eq_div_pow]

theorem wordToPixel_pixelToWord (p : Pixel) : wordToPixel (pixelToWord p) = p := by
  obtain ⟨c0, c1, c2⟩ := p
  simp only [wordToPixel_eq, toNat_pixelToWord, Pixel.mk.injEq, BitVec.toNat_eq, BitVec.toNat_ofNat]
  refine ⟨?_, ?_, ?_⟩ <;> omega

/-- Bits 31:24 of a written word are lost. -/
theorem toNat_pixelToWord_wordToPixel (w : Word) : (pixelToWord (wordToPixel w)).toNat = w.toNat % 2 ^ 24 := by
  simp only [toNat_pixelToWord, wordToPixel_eq, BitVec.toNat_ofNat]
  omega

/-- The octet that R170 takes from bit `k` on is the 8-bit field there. -/
theorem lo8_shift_and_ff (w : Word) (k : Nat) : lo8 ((w >>> k) &&& 0xFF#32) = w.extractLsb' k 8 := by
  apply BitVec.eq_of_toNat_eq
  simp [lo8, Nat.and_two_pow_sub_one_eq_mod _ 8]

theorem wordToPixel_eq_startOctets (w : Word) : wordToPixel w = startOctets w := by
  simp only [wordToPixel, startOctets, lo8_shift_and_ff, ← lo8_shift_and_ff w 0, BitVec.ushiftRight_zero]

/-- Settles O50: the word's value is the sum of the lanes' weights, and each lane of a word is the octet at its place. -/
theorem pixelWordLayout : Obligations.PixelWordLayout :=
  ⟨fun p => ⟨toNat_pixelToWord p, wordToPixel_pixelToWord p⟩,
    fun w => ⟨toNat_pixelToWord_wordToPixel w, wordToPixel_eq_startOctets w⟩⟩

/-! ## The selected window (R38, R64) -/

theorem advance_eq (s : State) : advance s = { s with widx := nextWidx s } := by
  unfold advance nextWidx
  split <;> rfl

theorem windowRange_eq (s : State) :
    windowRange s = if s.win = 7#3 then 0 else if s.win = 4#3 then 2 * s.nMax else s.nMax := by
  unfold windowRange
  split
  case h_1 h => simp [h]
  case h_2 h => simp [h]
  case h_3 h4 h7 => rw [if_neg h7, if_neg h4]

theorem windowRange_le_iff (s : State) (i : Nat) :
    windowRange s ≤ i ↔ s.win = 7#3 ∨ (if s.win = 4#3 then 2 * s.nMax else s.nMax) ≤ i := by
  rw [windowRange_eq]
  by_cases h : s.win = 7#3 <;> simp [h]

/-- Windows 0 to 3 select the buffers of the same number (R38). -/
theorem windowBuf_eq_some : ∀ e ∈ [(0#3, BufId.b0), (1#3, .b1), (2#3, .b2), (3#3, .b3)], windowBuf e.1 = some e.2 := by
  decide

section bufferWindow
variable {s : State} {b : BufId}

/-- A window on a buffer is none of the windows 4 to 7. -/
theorem win_ne_of_windowBuf (h : windowBuf s.win = some b) :
    s.win ≠ 4#3 ∧ s.win ≠ 5#3 ∧ s.win ≠ 6#3 ∧ s.win ≠ 7#3 := by
  refine ⟨?_, ?_, ?_, ?_⟩ <;> intro hw <;> simp [hw, windowBuf] at h

theorem windowRange_of_windowBuf (h : windowBuf s.win = some b) : windowRange s = s.nMax := by
  obtain ⟨h4, -, -, h7⟩ := win_ne_of_windowBuf h
  rw [windowRange_eq, if_neg h7, if_neg h4]

theorem windowElem_of_windowBuf (h : windowBuf s.win = some b) :
    windowElem s = some (pixelToWord (readBuf s b s.widx.toNat)) := by
  obtain ⟨h4, h5, h6, -⟩ := win_ne_of_windowBuf h
  simp [windowElem, h]

theorem storeWindow_of_windowBuf (v : Word) (h : windowBuf s.win = some b) :
    storeWindow v s = storeBuf b [(s.widx.toNat, wordToPixel v)] s := by
  obtain ⟨h4, h5, h6, -⟩ := win_ne_of_windowBuf h
  simp [storeWindow, h]
end bufferWindow

theorem storeWindow_of_readOnly {s : State} (v : Word) (h : s.win = 4#3 ∨ s.win = 6#3 ∨ s.win = 7#3) :
    storeWindow v s = dropAccess s := by
  rcases h with h | h | h <;> simp [storeWindow, windowBuf, h]

theorem storeWindow_of_p {s : State} (v : Word) (h : s.win = 5#3) :
    storeWindow v s = invalidateTables { s with p := s.p.write s.widx.toNat v } := by
  simp [storeWindow, h]

/-! ## Reads of WDATA (R62, R64, R65) -/

theorem hostRead_wdata (s : State) : hostRead 0x034#12 s = .next (readWdata s) := hostRead_eq .wdata s

section readWdata
variable {s : State}

theorem readWdata_of_busy (h : s.busy = true) : readWdata s = { s with accErr := true, rdata := 0#32 } := by
  rw [readWdata, if_pos h]
  rfl

theorem readWdata_of_beyond (hb : s.busy = false) (h : windowRange s ≤ s.widx.toNat) :
    readWdata s = { s with accErr := true, rdata := 0#32, widx := nextWidx s } := by
  rw [readWdata, if_neg (by simp [hb]), if_neg (Nat.not_lt.mpr h)]
  exact advance_eq _

theorem readWdata_of_elem {v : Word} (hb : s.busy = false) (h : s.widx.toNat < windowRange s)
    (he : windowElem s = some v) : readWdata s = { s with rdata := v, widx := nextWidx s } := by
  rw [readWdata, if_neg (by simp [hb]), if_pos h, he]
  exact advance_eq _
end readWdata

/-- Settles O48: the access is the arm of `readWdata` that BUSY, the window's range and the window's element select. -/
theorem wdataReadFollowsPseudocode : Obligations.WdataReadFollowsPseudocode := by
  intro s
  simp only [hostRead_wdata, Host.Outcome.next.injEq]
  refine ⟨readWdata_of_busy, fun hb => ⟨fun h => ?beyond, fun e he hw hi => ?buffer, fun hw hi => ?ks, fun hw hi => ?p,
    fun hw hi => ?q⟩⟩
  case beyond => exact readWdata_of_beyond hb ((windowRange_le_iff s _).mpr h)
  case buffer =>
    have hbuf : windowBuf s.win = some e.2 := hw ▸ windowBuf_eq_some e he
    have hrange : s.widx.toNat < windowRange s := windowRange_of_windowBuf hbuf ▸ hi
    exact ⟨_, _, rfl, readWdata_of_elem hb hrange (windowElem_of_windowBuf hbuf), rfl, toNat_pixelToWord _⟩
  case ks | p | q => exact readWdata_of_elem hb (by simpa [windowRange_eq, hw] using hi) (by simp [windowElem, hw])

/-! ## Writes of WDATA (R65, R66, R67) -/

theorem hostWrite_wdata (v : Word) (s : State) : hostWrite 0x034#12 v s = .next (writeWdata v s) :=
  hostWrite_eq .wdata v s

section writeWdata
variable {s : State} (v : Word)

theorem writeWdata_of_busy (h : s.busy = true) : writeWdata v s = dropAccess s := by
  rw [writeWdata, if_pos h]

theorem writeWdata_of_beyond (hb : s.busy = false) (h : windowRange s ≤ s.widx.toNat) :
    writeWdata v s = advance (dropAccess s) := by
  rw [writeWdata, if_neg (by simp [hb]), if_neg (Nat.not_lt.mpr h)]

theorem writeWdata_of_inRange (hb : s.busy = false) (h : s.widx.toNat < windowRange s) :
    writeWdata v s = advance (storeWindow v s) := by
  rw [writeWdata, if_neg (by simp [hb]), if_pos h]

/-- A window the host cannot write drops every write, in range or not. -/
theorem writeWdata_of_readOnly (hb : s.busy = false) (h : s.win = 4#3 ∨ s.win = 6#3 ∨ s.win = 7#3) :
    writeWdata v s = advance (dropAccess s) := by
  rcases Nat.lt_or_ge s.widx.toNat (windowRange s) with hi | hi
  · rw [writeWdata_of_inRange v hb hi, storeWindow_of_readOnly v h]
  · exact writeWdata_of_beyond v hb hi

/-- KS has 2·N_MAX elements but is read-only, so N_MAX bounds the indices a write can reach in every window. -/
theorem writeWdata_of_dropped (hb : s.busy = false)
    (h : s.win = 4#3 ∨ s.win = 6#3 ∨ s.win = 7#3 ∨ s.nMax ≤ s.widx.toNat) :
    writeWdata v s = advance (dropAccess s) := by
  by_cases hro : s.win = 4#3 ∨ s.win = 6#3 ∨ s.win = 7#3
  · exact writeWdata_of_readOnly v hb hro
  · have hi : s.nMax ≤ s.widx.toNat := by tauto
    have h4 : s.win ≠ 4#3 := fun h4 => hro (.inl h4)
    exact writeWdata_of_beyond v hb ((windowRange_le_iff s _).mpr (.inr (by rwa [if_neg h4])))

theorem writeWdata_of_buffer {b : BufId} (hb : s.busy = false) (hbuf : windowBuf s.win = some b)
    (hi : s.widx.toNat < s.nMax) :
    writeWdata v s = { storeBuf b [(s.widx.toNat, wordToPixel v)] s with widx := nextWidx s } := by
  rw [writeWdata_of_inRange v hb (windowRange_of_windowBuf hbuf ▸ hi), storeWindow_of_windowBuf v hbuf]
  exact advance_eq _

theorem writeWdata_of_p (hb : s.busy = false) (hw : s.win = 5#3) (hi : s.widx.toNat < s.nMax) :
    writeWdata v s =
      { s with p := s.p.write s.widx.toNat v, pValid := false, qValid := false, widx := nextWidx s } := by
  rw [writeWdata_of_inRange v hb (by simpa [windowRange_eq, hw] using hi), storeWindow_of_p v hw]
  exact advance_eq _
end writeWdata

/-- Settles O49: the access is the arm of `writeWdata` that BUSY, the window and its range select, and the one element it
stores into is read back by the laws of the memories. -/
theorem wdataWriteFollowsPseudocode : Obligations.WdataWriteFollowsPseudocode := by
  intro s v
  simp only [hostWrite_wdata, Host.Outcome.next.injEq]
  refine ⟨writeWdata_of_busy v, fun hb => ⟨fun h => ?dropped, fun e he hw hi => ?buffer, fun hw hi => ?p⟩⟩
  case dropped => rw [writeWdata_of_dropped v hb h]; exact advance_eq _
  case buffer =>
    have hbuf : windowBuf s.win = some e.2 := hw ▸ windowBuf_eq_some e he
    refine ⟨_, writeWdata_of_buffer v hb hbuf hi, rfl, ?_, fun b j hbj => ?_⟩
    · rw [← wordToPixel_eq]
      exact readBuf_storeBuf_mem s e.2 _ (by simp) (List.mem_singleton_self _)
    · by_cases hbe : b = e.2
      · subst hbe
        exact readBuf_storeBuf_other s e.2 _ (by simpa using hbj)
      · exact readBuf_storeBuf_ne s _ hbe j
  case p =>
    refine ⟨_, writeWdata_of_p v hb hw hi, rfl, ?_, fun j hj => ?_⟩
    · simp [readP]
    · simp [readP, Memory.stored_write_other _ _ hj]

end Sys2Proof.Machine
end

section
/-! The decoder against the pseudocode and the opcode table: the obligation O3 (spec/30_encoding.md R90 to R96). -/

namespace Sys2Proof

/-! ## The fields of a word, in numbers (R90) -/

section fields
variable (w : Word)

theorem toNat_opField : (opField w).toNat = w.toNat % 256 := by simp [opField]

theorem toNat_srcField : (srcField w).toNat = w.toNat / 2 ^ 8 % 4 := by
  simp [srcField, Nat.shiftRight_eq_div_pow]

theorem toNat_dstField : (dstField w).toNat = w.toNat / 2 ^ 10 % 4 := by
  simp [dstField, Nat.shiftRight_eq_div_pow]

theorem toNat_tField : (tField w).toNat = w.toNat / 2 ^ 12 % 2 := by
  simp [tField, Nat.shiftRight_eq_div_pow]

theorem ushiftRight_eq_zero_iff_toNat_div (k : Nat) : w >>> k = 0#32 ↔ w.toNat / 2 ^ k = 0 := by
  simp [← BitVec.toNat_inj, Nat.shiftRight_eq_div_pow]
end fields

theorem bufOfField_of_mem {f : BitVec 2} {b : BufId}
    (h : (f.toNat, b) ∈ [(0, BufId.b0), (1, .b1), (2, .b2), (3, .b3)]) : bufOfField f = b := by
  revert f; cases b <;> decide

theorem tableOfField_of_mem {f : BitVec 1} {t : Table} (h : (f.toNat, t) ∈ [(0, Table.P), (1, .Q)]) :
    tableOfField f = t := by
  revert f; cases t <;> decide

/-! ## What `decode` answers, by the opcode -/

/-- The number of low bits that a command reads; all bits above them are unused (R94). -/
def usedBits : Instr → Nat
  | .nop | .gen | .pbuild | .pinv | .pchk => 8
  | .scat _ _ _ | .gath _ _ _ => 13
  | .cfwd _ _ | .crev _ _ | .enc _ _ | .dec _ _ => 12

/-- The command with the opcode of the given one and the operands that the fields of `w` name (R91, R92). -/
def withOperands (w : Word) : Instr → Instr
  | .scat _ _ _ => .scat (bufOfField (srcField w)) (bufOfField (dstField w)) (tableOfField (tField w))
  | .gath _ _ _ => .gath (bufOfField (srcField w)) (bufOfField (dstField w)) (tableOfField (tField w))
  | .cfwd _ _ => .cfwd (bufOfField (srcField w)) (bufOfField (dstField w))
  | .crev _ _ => .crev (bufOfField (srcField w)) (bufOfField (dstField w))
  | .enc _ _ => .enc (bufOfField (srcField w)) (bufOfField (dstField w))
  | .dec _ _ => .dec (bufOfField (srcField w)) (bufOfField (dstField w))
  | i => i

section decode
variable {w : Word} {i : Instr}

theorem decode_of_opcode (h : opField w = opcodeOf i) :
    decode w = readFields w (usedBits i) (withOperands w i) := by
  cases i <;> simp only [decode, h, opcodeOf, usedBits, withOperands]

theorem decode_of_unlisted
    (h : (opField w).toNat ∉ [0x00, 0x01, 0x02, 0x03, 0x04, 0x10, 0x11, 0x20, 0x21, 0x30, 0x31]) :
    decode w = .error .unassignedOp := by
  unfold decode
  split
  case h_12 => rfl
  all_goals next hop => simp [hop] at h

/-- The fields of a legal word are those of the command it decodes to, and its unused bits are zero. -/
theorem fields_of_decode (h : decode w = .ok i) :
    opField w = opcodeOf i ∧ w >>> usedBits i = 0#32 ∧ withOperands w i = i := by
  unfold decode at h
  split at h
  case h_12 => cases h
  all_goals
    next hop =>
      obtain ⟨hzero, rfl⟩ := readFields_ok h
      exact ⟨hop, hzero, rfl⟩

/-- A word is no other than the encoding of the command it decodes to: its fields determine it (R93, R94). -/
theorem eq_encode_of_decode (h : decode w = .ok i) : w = encode i := by
  obtain ⟨hop, hzero, hargs⟩ := fields_of_decode h
  rw [← hargs]
  cases i
  case nop | gen | pbuild | pinv | pchk =>
    simpa [encode, withOperands, opcodeOf, hop] using eq_formatC_of_unused hzero
  case scat | gath => simpa [encode, withOperands, opcodeOf, hop] using eq_formatC_of_rsv hzero
  case cfwd | crev | enc | dec => simpa [encode, withOperands, opcodeOf, hop] using eq_formatC_of_t_rsv hzero

/-- One group of the pseudocode's cases: the listed opcodes share the place from which the bits are unused. -/
theorem decode_of_group {group : List (Nat × Instr)} {used : Nat}
    (hc : ∀ e ∈ group, (opcodeOf e.2).toNat = e.1 ∧ usedBits e.2 = used ∧ withOperands w e.2 = e.2) :
    ∀ e ∈ group, w.toNat % 256 = e.1 →
      decode w = if w.toNat / 2 ^ used ≠ 0 then .error .nonzeroUnused else .ok e.2 := by
  intro e he hnum
  obtain ⟨hval, hused, hargs⟩ := hc e he
  have hop : opField w = opcodeOf e.2 := BitVec.eq_of_toNat_eq (by rw [toNat_opField, hnum, hval])
  rw [decode_of_opcode hop, hused, hargs, readFields]
  simp only [ushiftRight_eq_zero_iff_toNat_div, ite_not]
end decode

/-! ## The rows of the opcode table (R96) -/

section rows
variable {w mask : Word}

theorem opField_and (h : opField mask = 0xFF#8) : opField (w &&& mask) = opField w := by
  have hand : opField (w &&& mask) = opField w &&& opField mask := BitVec.extractLsb'_and
  rw [hand, h]
  exact BitVec.and_allOnes

theorem ushiftRight_and {k : Nat} (h : mask >>> k = BitVec.allOnes 32 >>> k) : (w &&& mask) >>> k = w >>> k := by
  rw [BitVec.ushiftRight_and_distrib, h, ← BitVec.ushiftRight_and_distrib, BitVec.and_allOnes]
end rows

/-- A row's mask takes OP and the bits its command leaves unused, and its match is the opcode with these bits zero. -/
def DescribesRow (i : Instr) (row : OpcodeRow) : Prop :=
  opField row.mask = 0xFF#8 ∧ row.mask >>> usedBits i = BitVec.allOnes 32 >>> usedBits i ∧
    opField row.value = opcodeOf i ∧ row.value >>> usedBits i = 0#32

theorem exists_describesRow : ∀ row ∈ opcodeTable, ∃ i, DescribesRow i row := by
  unfold DescribesRow
  simp only [opcodeTable, List.forall_mem_cons]
  exact ⟨⟨.nop, by decide⟩, ⟨.gen, by decide⟩, ⟨.pbuild, by decide⟩, ⟨.pinv, by decide⟩, ⟨.pchk, by decide⟩,
    ⟨.scat .b0 .b0 .P, by decide⟩, ⟨.gath .b0 .b0 .P, by decide⟩, ⟨.cfwd .b0 .b0, by decide⟩,
    ⟨.crev .b0 .b0, by decide⟩, ⟨.enc .b0 .b0, by decide⟩, ⟨.dec .b0 .b0, by decide⟩, nofun⟩

section matching
variable {w : Word}

/-- A word that matches a row has the row's opcode and no unused bit set, so it is legal. -/
theorem exists_decode_of_rowMatches {row : OpcodeRow} (hrow : row ∈ opcodeTable) (h : rowMatches w row = true) :
    ∃ i, decode w = .ok i := by
  obtain ⟨i, hmaskOp, hmaskHigh, hop, hhigh⟩ := exists_describesRow row hrow
  have hand : w &&& row.mask = row.value := eq_of_beq h
  have hwop : opField w = opcodeOf i := by rw [← opField_and hmaskOp, hand, hop]
  have hwhigh : w >>> usedBits i = 0#32 := by rw [← ushiftRight_and hmaskHigh, hand, hhigh]
  exact ⟨withOperands w i, by rw [decode_of_opcode hwop, readFields, if_pos hwhigh]⟩

open Laws.EncodingMatchesRow in
/-- An encoding matches the row of its command and no other. -/
theorem mnemonic_matchingRows_encode : ∀ i, (matchingRows (encode i)).map OpcodeRow.mnemonic = [mnemonicOf i]
  | .nop => nop
  | .gen => gen
  | .pbuild => pbuild
  | .pinv => pinv
  | .pchk => pchk
  | .scat a b t => scat a b t
  | .gath a b t => gath a b t
  | .cfwd a b => cfwd a b
  | .crev a b => crev a b
  | .enc a b => enc a b
  | .dec a b => dec a b

theorem mnemonic_matchingRows_of_decode {i : Instr} (h : decode w = .ok i) :
    (matchingRows w).map OpcodeRow.mnemonic = [mnemonicOf i] :=
  eq_encode_of_decode h ▸ mnemonic_matchingRows_encode i

theorem length_matchingRows_of_decode {i : Instr} (h : decode w = .ok i) : (matchingRows w).length = 1 := by
  simpa using congrArg List.length (mnemonic_matchingRows_of_decode h)

theorem matchingRows_eq_nil (h : ¬∃ i, decode w = .ok i) : matchingRows w = [] :=
  List.filter_eq_nil_iff.mpr fun _ hrow hm => h (exists_decode_of_rowMatches hrow hm)

theorem exists_decode_iff : (∃ i, decode w = .ok i) ↔ (matchingRows w).length = 1 := by
  refine ⟨fun ⟨_, h⟩ => length_matchingRows_of_decode h, fun h => ?_⟩
  by_contra hillegal
  simp [matchingRows_eq_nil hillegal] at h

/-- No two rows of the table overlap. -/
theorem length_matchingRows_le_one : (matchingRows w).length ≤ 1 := by
  by_cases h : ∃ i, decode w = .ok i
  · exact (exists_decode_iff.mp h).le
  · simp [matchingRows_eq_nil h]
end matching

/-- Settles O3: the groups of the pseudocode are the arms of `decode`; a legal word is its command's encoding, which
matches the row of its name alone, and a word that matches a row is legal. -/
theorem decodeFollowsPseudocode : Obligations.DecodeFollowsPseudocode := by
  intro w
  refine ⟨decode_of_group ?opOnly, fun a b t ha hb ht => ?operands, fun h => decode_of_unlisted (by rwa [toNat_opField]),
    exists_decode_iff, length_matchingRows_le_one, fun _ => mnemonic_matchingRows_of_decode⟩
  case opOnly => simp [opcodeOf, usedBits, withOperands]
  case operands =>
    have hsrc : bufOfField (srcField w) = a := bufOfField_of_mem (by rwa [toNat_srcField])
    have hdst : bufOfField (dstField w) = b := bufOfField_of_mem (by rwa [toNat_dstField])
    have htab : tableOfField (tField w) = t := tableOfField_of_mem (by rwa [toNat_tField])
    constructor <;> exact decode_of_group (by simp [opcodeOf, usedBits, withOperands, hsrc, hdst, htab])

end Sys2Proof
end

section
/-! The life of a command: its acceptance, its abort, NOP, and the commands on an empty image, the obligations O5, O7,
O11 and O22 (spec/40_command_execution.md R110, R113, R116, R118). -/

namespace Sys2Proof.Machine

/-! ## Acceptance (R110, R68) -/

theorem whenIdle_of_busy {s : State} (t : State) (h : s.busy = true) : whenIdle s t = dropAccess s := if_pos h

/-- A CMD write while busy is no acceptance. -/
theorem hostWrite_cmd_busy {s : State} (w : Word) (h : s.busy = true) :
    hostWrite 0x00C#12 w s = .next (dropAccess s) :=
  (hostWrite_eq .cmd w s).trans (congrArg Host.Outcome.next (whenIdle_of_busy _ h))

/-- Settles O5: `accept` and `dropAccess` are the two updates the statement writes out. -/
theorem cmdWriteAcceptsWord : Obligations.CmdWriteAcceptsWord :=
  fun _ w => ⟨hostWrite_cmd_idle w, hostWrite_cmd_busy w⟩

/-! ## Aborts (R97, R111, R113) -/

/-- Bits 2:0 of STATUS are ERR, DONE and BUSY (R23). -/
theorem statusWord_mod_eight (s : State) :
    (statusWord s).toNat % 8 =
      4 * (flagBit s.err).toNat + 2 * (flagBit s.done).toNat + (flagBit s.busy).toNat := by
  simp only [statusWord, toNat_append_eq_add]
  omega

/-- A failing check raises a code of its own, never NONE. -/
theorem check_ne_clear (i : Instr) (s : State) : check i s ≠ some .clear := by
  intro h
  obtain ⟨hc, -⟩ | ⟨hc, -⟩ | ⟨hc, -⟩ | ⟨hc, -⟩ | ⟨hc, -⟩ := check_eq_some_cases h <;> cases hc

/-- `execute` never raises ERR, so a command that ends with a new ERR = 1 was stopped by a check. -/
theorem exec_err_cases {i : Instr} {s t : State} (hs : s.err = false) (h : exec i s = .next t) (ht : t.err = true) :
    ∃ c, c ≠ .clear ∧ t = finish (abort c s) := by
  obtain ⟨c, hc, rfl⟩ | ⟨-, u, hu, rfl⟩ := exec_cases h
  · exact ⟨c, fun hclear => check_ne_clear i s (hclear ▸ hc), rfl⟩
  · have huerr : u.err = s.err := by rw [executeOf_frame hu]
    simp [huerr, hs] at ht

theorem completion_of_illegal {s : State} (h : ∀ i, decode s.cmd ≠ .ok i) :
    completion s = .next (finish (abort .illegal s)) := by
  cases hd : decode s.cmd with
  | ok i => exact absurd hd (h i)
  | error e => simp only [completion, hd]

theorem blockStep_of_busy {s : State} (h : s.busy = true) : blockStep s = completion s :=
  (blockStep_eq s).trans (if_pos h)

/-- After an abort STATUS reads BUSY = 0, DONE = 1, ERR = 1. -/
theorem statusWord_finish_abort (c : ErrCode) (s : State) : (statusWord (finish (abort c s))).toNat % 8 = 6 :=
  statusWord_mod_eight _

/-- Settles O7: a command that raises ERR ended in `finish (abort c s)`, and an illegal word ends there always. -/
theorem abortIsPrecise : Obligations.AbortIsPrecise := by
  refine ⟨fun i s t hs h ht => ?command, fun s hbusy hillegal => ?illegal⟩
  case command =>
    obtain ⟨c, hc, rfl⟩ := exec_err_cases hs h ht
    exact ⟨rfl, hc, statusWord_finish_abort c s⟩
  case illegal =>
    exact ⟨_, (blockStep_of_busy hbusy).trans (completion_of_illegal hillegal), rfl, statusWord_finish_abort _ s⟩

/-! ## NOP (R118) -/

theorem decode_eq_nop_iff (w : Word) : decode w = .ok .nop ↔ w = 0x00000000#32 := by
  refine ⟨fun h => (eq_encode_of_decode h).trans (by decide), ?_⟩
  rintro rfl
  rfl

/-- No check applies to NOP, and its `execute` does nothing. -/
theorem exec_nop (s : State) : exec .nop s = .next (finish s) := exec_of_pass rfl rfl

/-- A command that goes on with ERR = 0 has not aborted. -/
theorem not_abortsWith_of_err_eq_false {i : Instr} {s t : State} (h : exec i s = .next t) (ht : t.err = false)
    (c : ErrCode) : ¬ AbortsWith i s c := by
  intro ha
  obtain rfl := Host.Outcome.next.inj (h.symm.trans ha)
  cases ht

/-- Settles O11: in every state NOP is `finish` alone, which leaves IE and raises DONE. -/
theorem nopOnlyCompletes : Obligations.NopOnlyCompletes := by
  refine ⟨decode_eq_nop_iff, fun s =>
    ⟨exec_nop s, fun hs => not_abortsWith_of_err_eq_false (exec_nop s) hs, fun t h => ?_⟩⟩
  obtain rfl := Host.Outcome.next.inj ((exec_nop s).symm.trans h)
  simp [irq]

/-! ## Empty images (R116) -/

@[simp] theorem storeKs_nil (s : State) : storeKs [] s = s := rfl
@[simp] theorem storeP_nil (s : State) : storeP [] s = s := rfl
@[simp] theorem storeQ_nil (s : State) : storeQ [] s = s := rfl
@[simp] theorem storeBuf_nil (b : BufId) (s : State) : storeBuf b [] s = s := by
  simp [storeBuf, Memory.writeAll]

@[simp] theorem numbered_nil {α : Type} : numbered ([] : List α) = [] := rfl
@[simp] theorem invert_nil : invert [] = [] := rfl
@[simp] theorem forward_nil (ks : List Word) (w : Word) : forward [] ks w = [] := rfl
@[simp] theorem reverse_nil (ks : List Word) (w : Word) : reverse [] ks w = [] := rfl
@[simp] theorem whenInCapacity_nil (t s : State) : whenInCapacity [] t s = .next t := rfl

/-- What the command `i` does to the registers when N = 0, once its checks have passed: its valid bits, and XS, which
GEN, ENC and DEC leave at SEED. -/
def emptyImageEffect (i : Instr) (s : State) : State :=
  match i with
  | .gen => validateKs (setXs s.seed s)
  | .pbuild => validateNewP s
  | .pinv => validateQ s
  | .pchk => validateP s
  | .enc _ _ => validateNewP (validateKs (setXs s.seed s))
  | .dec _ _ => validateTables (validateKs (setXs s.seed s))
  | .nop | .scat _ _ _ | .gath _ _ _ | .cfwd _ _ | .crev _ _ => s

section emptyImage
variable {s : State} (hN : s.N = 0)
include hN

theorem tableRange_of_empty (t : Table) : tableRange s t s.N = [] :=
  List.eq_nil_of_length_eq_zero (by simp [hN])

theorem bufRange_of_empty (b : BufId) : bufRange s b s.N = [] :=
  List.eq_nil_of_length_eq_zero (by simp [hN])

theorem keystream_of_empty : keystream s = [] :=
  List.eq_nil_of_length_eq_zero (by simp [keystream, hN])

theorem keyPermutation_of_empty : keyPermutation s = [] :=
  List.eq_nil_of_length_eq_zero (by simp [keyPermutation, hN])

theorem encrypted_of_empty (src : BufId) : encrypted src s = [] :=
  List.eq_nil_of_length_eq_zero (by simp [encrypted, hN])

theorem decrypted_of_empty (src : BufId) : decrypted src s = [] :=
  List.eq_nil_of_length_eq_zero (by simp [decrypted, hN])

theorem storeKeystream_of_empty : storeKeystream s = validateKs (setXs s.seed s) := by
  simp [storeKeystream, keystream_of_empty hN]

/-- Every list a command stores has N or 2N elements, so none is stored. -/
theorem executeOf_of_empty (i : Instr) : executeOf i s = .next (emptyImageEffect i s) := by
  cases i
  case nop | pchk => rfl
  case gen => exact congrArg Host.Outcome.next (storeKeystream_of_empty hN)
  case pbuild =>
    have hperm : build s.N (ksRange s 0 s.N) = [] := List.eq_nil_of_length_eq_zero (by simp [hN])
    simp [executeOf, executePbuild, hperm, emptyImageEffect]
  case pinv => simp [executeOf, executePinv, tableRange_of_empty hN, emptyImageEffect]
  case scat a b t => simp [executeOf, executeScat, tableRange_of_empty hN, emptyImageEffect]
  case gath a b t => simp [executeOf, executeGath, tableRange_of_empty hN, emptyImageEffect]
  case cfwd a b => simp [executeOf, executeCfwd, bufRange_of_empty hN, emptyImageEffect]
  case crev a b => simp [executeOf, executeCrev, bufRange_of_empty hN, emptyImageEffect]
  case enc a b =>
    simp [executeOf, executeEnc, encrypted_of_empty hN, keyPermutation_of_empty hN, storeKeystream_of_empty hN,
      emptyImageEffect]
  case dec a b =>
    simp [executeOf, executeDec, decrypted_of_empty hN, keyPermutation_of_empty hN, storeKeystream_of_empty hN,
      emptyImageEffect]

/-- With N = 0 neither SIZE nor NOT_PERM can fail: 0 ≤ N_MAX, and the empty list is a bijection on [0, 0). -/
theorem check_of_empty {i : Instr} (halias : failsAlias i = false) (hks : failsKs i s = false)
    (htable : failsTable i s = false) : check i s = none := by
  have hsize : failsSize i s = false := by cases i <;> simp [failsSize, hN]
  have hholds : holdsPerm s = true := by simp [holdsPerm, isPerm, hN]
  have hperm : failsPerm i s = false := by cases i <;> simp [failsPerm, hholds]
  exact (check_eq_none_iff i s).mpr ⟨hsize, halias, hks, htable, hperm⟩

theorem exec_of_empty {i : Instr} (halias : failsAlias i = false) (hks : failsKs i s = false)
    (htable : failsTable i s = false) : exec i s = .next (finish (emptyImageEffect i s)) :=
  exec_of_pass (check_of_empty hN halias hks htable) (executeOf_of_empty hN i)
end emptyImage

/-- Settles O22: of the checks only ALIAS, NO_KS and NO_TABLE are left, and each command's effect is its register effect
alone. -/
theorem emptyImageCommands : Obligations.EmptyImageCommands := by
  intro s hN
  refine ⟨exec_nop s, exec_of_empty hN rfl rfl rfl, fun hks => ?pbuild, fun hp => ?pinv, exec_of_empty hN rfl rfl rfl,
    fun a b hab => ?buffers⟩
  case pbuild => exact exec_of_empty hN rfl (by simp [failsKs, hks]) rfl
  case pinv => exact exec_of_empty hN rfl rfl (by simp [failsTable, hp])
  case buffers =>
    have halias : (a == b) = false := beq_false_of_ne hab
    refine ⟨fun tb htb => ?tables, fun hks => ?chains, exec_of_empty hN halias rfl rfl,
      exec_of_empty hN halias rfl rfl⟩
    case tables =>
      have hvalid : (!tableValid s tb) = false := by simp [htb]
      exact ⟨exec_of_empty hN halias rfl hvalid, exec_of_empty hN halias rfl hvalid⟩
    case chains =>
      have hvalid : (!s.ksValid) = false := by simp [hks]
      exact ⟨exec_of_empty hN halias hvalid rfl, exec_of_empty hN halias hvalid rfl⟩

end Sys2Proof.Machine
end

section
/-! The keystream: what `generate` lists, and GEN, which stores it: the obligations O12, O24 and O25
(spec/41_keystream.md R131 to R134). -/

namespace Sys2Proof.Machine

/-! ## The stream (R131, R133, R134) -/

/-- Word k of the stream is update k + 1 of the seed. -/
theorem generate_eq_map (seed : Word) (n : Nat) :
    generate seed n = (List.range n).map fun k => xsStep^[k + 1] seed := by
  induction n generalizing seed with
  | zero => rfl
  | succ n ih =>
    rw [generate, ih, List.range_succ_eq_map, List.map_cons, List.map_map]
    rfl

theorem generate_take (seed : Word) {m n : Nat} (h : m ≤ n) : (generate seed n).take m = generate seed m := by
  rw [generate_eq_map, generate_eq_map, ← List.map_take, List.take_range, min_eq_left h]

theorem getD_generate (seed d : Word) {n k : Nat} (h : k < n) : (generate seed n).getD k d = xsStep^[k + 1] seed := by
  simp [generate_eq_map, h]

/-- The last word is the n-th update; the empty stream leaves the seed. -/
theorem getLastD_generate (seed : Word) (n : Nat) : (generate seed n).getLastD seed = xsStep^[n] seed := by
  induction n generalizing seed with
  | zero => rfl
  | succ n ih => rw [getLastD_generate_succ, ih, Function.iterate_succ_apply]

theorem xsStep_zero : xsStep 0#32 = 0#32 := by decide

/-- The seed 0 is a fixed point of the update, so no later word differs from it. -/
theorem generate_zero_seed (n : Nat) : generate 0#32 n = List.replicate n 0#32 := by
  simp [generate_eq_map, Function.iterate_fixed xsStep_zero]

/-- Settles O24: both clauses are read off the closed form of `generate`. -/
theorem generateIteratesUpdate : Obligations.GenerateIteratesUpdate :=
  fun seed n => ⟨generate_eq_map seed n, fun _ => generate_take seed⟩

/-! ## The stored keystream, as GEN, ENC and DEC leave it (R132, R190, R192) -/

/-- XS is left at update 2N of the seed, which is the seed itself when N = 0 (R33). -/
theorem storeKeystream_eq (s : State) :
    storeKeystream s = validateKs (setXs (xsStep^[2 * s.N] s.seed) (storeKs (keystream s) s)) := by
  rw [storeKeystream, keystream, getLastD_generate]

theorem readKs_storeKeystream (s : State) (k : Nat) :
    readKs (storeKeystream s) k = if k < 2 * s.N then xsStep^[k + 1] s.seed else readKs s k := by
  simp only [storeKeystream, readKs_setValid, readKs_setXs, readKs_storeKs, keystream, length_generate]
  by_cases h : k < 2 * s.N
  · rw [if_pos h, if_pos h, getD_generate _ _ h]
  · rw [if_neg h, if_neg h]

theorem ksRange_storeKeystream (s : State) : ksRange (storeKeystream s) 0 (2 * s.N) = generate s.seed (2 * s.N) := by
  rw [generate_eq_map]
  refine List.map_congr_left fun k hk => ?_
  rw [Nat.zero_add, readKs_storeKeystream, if_pos (List.mem_range.mp hk)]

/-! ## SIZE, the first check of every command but NOP (R111) -/

theorem failsSize_of_le {s : State} (i : Instr) (h : s.N ≤ s.nMax) : failsSize i s = false := by
  cases i <;> simp [failsSize, h]

theorem abortsWith_of_check {i : Instr} {s : State} {c : ErrCode} (h : check i s = some c) : AbortsWith i s c :=
  exec_of_abort h

/-- SIZE comes before all other checks, so it is the code of every command but NOP on an image that is too large. -/
theorem abortsWith_size {i : Instr} {s : State} (hi : i ≠ .nop) (h : s.nMax < s.N) : AbortsWith i s .size := by
  have hsize : failsSize i s = true := (failsSize_iff i s).mpr ⟨hi, h⟩
  exact abortsWith_of_check (if_pos hsize)

/-! ## GEN (R132) -/

/-- No two words decode to the same command. -/
theorem decode_eq_ok_iff_eq {w₀ : Word} {i : Instr} (h : decode w₀ = .ok i) (w : Word) : decode w = .ok i ↔ w = w₀ :=
  ⟨fun hw => (eq_encode_of_decode hw).trans (eq_encode_of_decode h).symm, fun hw => hw ▸ h⟩

/-- SIZE is the only check that applies to GEN. -/
theorem exec_gen {s : State} (h : s.N ≤ s.nMax) : exec .gen s = .next (finish (storeKeystream s)) :=
  exec_of_pass ((check_eq_none_iff .gen s).mpr ⟨failsSize_of_le .gen h, rfl, rfl, rfl, rfl⟩) rfl

/-- Settles O12: GEN that fits is `finish (storeKeystream s)`, whose elements of KS the laws of the stored keystream give;
GEN that does not fit fails SIZE. -/
theorem genWritesKeystream : Obligations.GenWritesKeystream := by
  refine ⟨decode_eq_ok_iff_eq rfl, fun s => ⟨fun h => ?completes, abortsWith_size nofun⟩⟩
  case completes =>
    refine ⟨_, exec_gen h, congrArg finish (storeKeystream_eq s), ksRange_storeKeystream s, fun k hk => ?_,
      fun k hk => ?_⟩
    · rw [readKs_finish, readKs_storeKeystream, if_pos hk]
    · rw [readKs_finish, readKs_storeKeystream, if_neg (Nat.not_lt.mpr hk)]

/-- Settles O25: GEN checks nothing of SEED, and what it stores for the seed 0 is the stream of zero words. -/
theorem zeroSeedGivesZeroStream : Obligations.ZeroSeedGivesZeroStream := by
  refine ⟨xsStep_zero, generate_zero_seed, fun s hseed h => ⟨_, exec_gen h, rfl, rfl, rfl, ?_⟩⟩
  calc ksRange (finish (storeKeystream s)) 0 (2 * s.N)
    _ = generate s.seed (2 * s.N) := ksRange_storeKeystream s
    _ = List.replicate (2 * s.N) 0#32 := by rw [hseed, generate_zero_seed]

end Sys2Proof.Machine
end

section
/-! Permutations: the bijection test, `build` and `invert` on lists, and the commands PBUILD, PINV and PCHK over them: the
obligations O13, O14, O15, O27, O29 and O30 (spec/42_permutation.md R141 to R156). -/

namespace Sys2Proof.Machine

/-! ## Bijections on [0, n) as lists (R153) -/

section bijection
variable {P : List Nat} {n : Nat}

theorem nodup_of_perm_range (h : P.Perm (List.range n)) : P.Nodup := h.nodup_iff.mpr List.nodup_range

theorem length_of_perm_range (h : P.Perm (List.range n)) : P.length = n := h.length_eq.trans List.length_range

theorem mem_iff_lt_of_perm_range (h : P.Perm (List.range n)) {v : Nat} : v ∈ P ↔ v < n :=
  h.mem_iff.trans List.mem_range

theorem lt_of_getElem?_of_perm_range (h : P.Perm (List.range n)) {i j : Nat} (hi : P[i]? = some j) : i < n ∧ j < n := by
  obtain ⟨hlt, -⟩ := List.getElem?_eq_some_iff.mp hi
  exact ⟨length_of_perm_range h ▸ hlt, (mem_iff_lt_of_perm_range h).mp (List.mem_of_getElem? hi)⟩

/-- `n` words among which every value below `n` occurs leave no room for another value or for a repetition. -/
theorem perm_range_of_forall_mem (hlen : P.length = n) (h : ∀ v < n, v ∈ P) : P.Perm (List.range n) := by
  have hsub : (List.range n).Subperm P :=
    List.nodup_range.subperm fun v hv => h v (List.mem_range.mp hv)
  exact (hsub.perm_of_length_le (by simp [hlen])).symm

/-- `n` different words below `n` are all the values below `n`. -/
theorem perm_range_iff_lt_and_nodup (hlen : P.length = n) :
    P.Perm (List.range n) ↔ (∀ v ∈ P, v < n) ∧ P.Nodup := by
  constructor
  · exact fun h => ⟨fun v hv => (mem_iff_lt_of_perm_range h).mp hv, nodup_of_perm_range h⟩
  · rintro ⟨hlt, hnd⟩
    have hsub : P.Subperm (List.range n) := hnd.subperm fun v hv => List.mem_range.mpr (hlt v hv)
    exact hsub.perm_of_length_le (by simp [hlen])

theorem isPerm_iff_count : isPerm P n = true ↔ ∀ v < n, P.count v = 1 := by simp [isPerm]

theorem isPerm_iff_perm_range (hlen : P.length = n) : isPerm P n = true ↔ P.Perm (List.range n) := by
  rw [isPerm_iff_count]
  constructor
  · intro h
    exact perm_range_of_forall_mem hlen fun v hv => List.count_pos_iff.mp (by simp [h v hv])
  · intro h v hv
    exact List.count_eq_one_of_mem (nodup_of_perm_range h) ((mem_iff_lt_of_perm_range h).mpr hv)

end bijection

/-- Settles O29: counting, distinct words below N, and rearranging 0 to N−1 say the same of N words. -/
theorem isPermMeansBijection : Obligations.IsPermMeansBijection := fun _ _ hlen =>
  ⟨isPerm_iff_count, (isPerm_iff_perm_range hlen).trans (perm_range_iff_lt_and_nodup hlen), isPerm_iff_perm_range hlen,
    rfl⟩

/-! ## `invert` (R151, R156) -/

section invert
variable {P : List Nat} {n : Nat}

theorem mem_zip_range {α : Type} {l : List α} {i : Nat} {x : α} (h : l[i]? = some x) :
    (x, i) ∈ l.zip (List.range l.length) := by
  obtain ⟨hi, -⟩ := List.getElem?_eq_some_iff.mp h
  exact List.mem_of_getElem? (List.getElem?_zip_eq_some.mpr ⟨h, List.getElem?_range hi⟩)

theorem map_fst_zip_range {α : Type} (l : List α) : (l.zip (List.range l.length)).map Prod.fst = l :=
  List.map_fst_zip (by simp)

/-- Every value below `n` is hit by some index. -/
theorem exists_getElem?_of_lt (h : P.Perm (List.range n)) {j : Nat} (hj : j < n) : ∃ i : Nat, P[i]? = some j :=
  List.mem_iff_getElem?.mp ((mem_iff_lt_of_perm_range h).mpr hj)

/-- Q[P[i]] = i: no other store of `invert` reaches entry P[i]. -/
theorem getElem?_invert (h : P.Perm (List.range n)) {i j : Nat} (hi : P[i]? = some j) : (invert P)[j]? = some i := by
  have hj : j < P.length := length_of_perm_range h ▸ (lt_of_getElem?_of_perm_range h hi).2
  have hnd : ((P.zip (List.range P.length)).map Prod.fst).Nodup := by
    rw [map_fst_zip_range]; exact nodup_of_perm_range h
  exact getElem?_storeEach_mem P _ hnd hj (mem_zip_range hi)

theorem getElem?_invert_iff (h : P.Perm (List.range n)) {i j : Nat} : (invert P)[j]? = some i ↔ P[i]? = some j := by
  refine ⟨fun hq => ?_, getElem?_invert h⟩
  have hj : j < n := by
    obtain ⟨hlt, -⟩ := List.getElem?_eq_some_iff.mp hq
    simpa [length_of_perm_range h] using hlt
  obtain ⟨i', hi'⟩ := exists_getElem?_of_lt h hj
  have heq : i' = i := Option.some.inj ((getElem?_invert h hi').symm.trans hq)
  exact heq ▸ hi'

/-- The inverse of a bijection is the only list of its length with `i` at P[i]. -/
theorem eq_invert_of_getElem? {L : List Nat} (h : P.Perm (List.range n)) (hlen : L.length = n)
    (hL : ∀ i j : Nat, P[i]? = some j → L[j]? = some i) : L = invert P := by
  refine List.ext_getElem? fun j => ?_
  rcases Nat.lt_or_ge j n with hj | hj
  · obtain ⟨i, hi⟩ := exists_getElem?_of_lt h hj
    rw [hL i j hi, getElem?_invert h hi]
  · rw [List.getElem?_eq_none (hlen ▸ hj), List.getElem?_eq_none (by simpa [length_of_perm_range h] using hj)]

theorem invert_perm_range (h : P.Perm (List.range n)) : (invert P).Perm (List.range n) := by
  have hlen : P.length = n := length_of_perm_range h
  refine perm_range_of_forall_mem (by simp [hlen]) fun i hi => ?_
  exact List.mem_of_getElem? (getElem?_invert h (List.getElem?_eq_getElem (hlen ▸ hi)))

theorem invert_invert (h : P.Perm (List.range n)) : invert (invert P) = P :=
  (eq_invert_of_getElem? (invert_perm_range h) (length_of_perm_range h) fun _ _ => (getElem?_invert_iff h).mp).symm

end invert

/-- Settles O30: P sends `i` to `j` exactly where `invert P` sends `j` to `i`. -/
theorem invertIsInverse : Obligations.InvertIsInverse := by
  refine fun P n h => ⟨fun i hi => ?_, fun j hj => ?_, invert_perm_range h, invert_invert h⟩
  · obtain ⟨j, hj⟩ : ∃ j, P[i]? = some j := ⟨_, List.getElem?_eq_getElem ((length_of_perm_range h).symm ▸ hi)⟩
    exact ⟨j, (lt_of_getElem?_of_perm_range h hj).2, hj, getElem?_invert h hj⟩
  · obtain ⟨i, hi⟩ := exists_getElem?_of_lt h hj
    exact ⟨i, (lt_of_getElem?_of_perm_range h hi).1, getElem?_invert h hi, hi⟩

/-! ## `build` (R141, R143, R144) -/

theorem swapEntries_perm {α : Type} (l : List α) (i r : Nat) : (swapEntries l i r).Perm l := by
  unfold swapEntries
  split
  · next a b ha hb =>
    obtain ⟨hi, rfl⟩ := List.getElem?_eq_some_iff.mp ha
    obtain ⟨hr, rfl⟩ := List.getElem?_eq_some_iff.mp hb
    exact List.set_set_perm hi hr
  · exact .refl l

theorem buildFrom_perm (draws : List Word) (i : Nat) (perm : List Nat) : (buildFrom draws i perm).Perm perm := by
  induction i generalizing perm with
  | zero => exact .refl perm
  | succ i ih => exact (ih _).trans (swapEntries_perm _ _ _)

theorem build_perm_range (n : Nat) (draws : List Word) : (build n draws).Perm (List.range n) := buildFrom_perm _ _ _

theorem swapEntries_zero_append {α : Type} (a b : α) (l rest : List α) :
    swapEntries (a :: (l ++ b :: rest)) (l.length + 1) 0 = b :: (l ++ a :: rest) := by
  simp [swapEntries]

/-- Draws that are all zero swap each entry in turn with the first one, so the first entry ends behind the entries the
loop has walked. -/
theorem buildFrom_of_zero_draws {draws : List Word} (hz : ∀ k, draws.getD k 0#32 = 0#32) (a : Nat) (l rest : List Nat) :
    buildFrom draws l.length (a :: (l ++ rest)) = l ++ a :: rest := by
  induction l using List.reverseRecOn generalizing a rest with
  | nil => rfl
  | append_singleton l b ih =>
    have hstep : buildFrom draws (l.length + 1) (a :: (l ++ b :: rest)) =
        buildFrom draws l.length (b :: (l ++ a :: rest)) := by
      simp only [buildFrom, hz, BitVec.toNat_ofNat, Nat.zero_mod, swapEntries_zero_append]
    simp [hstep, ih]

theorem build_of_zero_draws {draws : List Word} (hz : ∀ k, draws.getD k 0#32 = 0#32) (n : Nat) :
    build (n + 1) draws = (List.range n).map (· + 1) ++ [0] := by
  have h := buildFrom_of_zero_draws hz 0 ((List.range n).map (· + 1)) []
  rw [List.append_nil, List.length_map, List.length_range] at h
  rwa [build, List.range_succ_eq_map]

/-! ## The checks after SIZE (R111) -/

section checks
variable {i : Instr} {s : State}

theorem check_eq_noKs (hsize : failsSize i s = false) (halias : failsAlias i = false) (hks : failsKs i s = true) :
    check i s = some .noKs := by
  simp [check, hsize, halias, hks]

theorem check_eq_noTable (hsize : failsSize i s = false) (halias : failsAlias i = false) (hks : failsKs i s = false)
    (htable : failsTable i s = true) : check i s = some .noTable := by
  simp [check, hsize, halias, hks, htable]

theorem check_eq_notPerm (hsize : failsSize i s = false) (halias : failsAlias i = false) (hks : failsKs i s = false)
    (htable : failsTable i s = false) (hperm : failsPerm i s = true) : check i s = some .notPerm := by
  simp [check, hsize, halias, hks, htable, hperm]

end checks

/-! ## PBUILD (R143, R144) -/

/-- A bijection stored to P is what P then holds: its values fit in 32 bits. -/
theorem tableRange_storeP (s : State) {l : List Nat} (h : ∀ v ∈ l, v < 2 ^ 32) :
    tableRange (storeP l s) .P l.length = l := by
  refine List.ext_getElem (by simp) fun k hk hk' => ?_
  have hlt : l[k] < 2 ^ 32 := h _ (List.getElem_mem hk')
  simpa [tableRange, readTable, readP_storeP, hk'] using hlt

/-- The state in which PBUILD finishes once its checks have passed. -/
theorem exec_pbuild {s : State} (h : s.N ≤ s.nMax) (hks : s.ksValid = true) :
    exec .pbuild s = .next (finish (validateNewP (storeP (build s.N (ksRange s 0 s.N)) s))) :=
  exec_of_pass ((check_eq_none_iff .pbuild s).mpr
    ⟨failsSize_of_le .pbuild h, rfl, by simp [failsKs, hks], rfl, rfl⟩) rfl

theorem abortsWith_noKs_pbuild {s : State} (h : s.N ≤ s.nMax) (hks : s.ksValid = false) : AbortsWith .pbuild s .noKs :=
  abortsWith_of_check (check_eq_noKs (failsSize_of_le .pbuild h) rfl (by simp [failsKs, hks]))

theorem tableRange_storeP_build {s : State} (h : s.N ≤ s.nMax) (draws : List Word) :
    tableRange (storeP (build s.N draws) s) .P s.N = build s.N draws := by
  have hfit : ∀ v ∈ build s.N draws, v < 2 ^ 32 := fun v hv =>
    ((mem_iff_lt_of_perm_range (build_perm_range _ _)).mp hv).trans (N_le_word h)
  simpa using tableRange_storeP s hfit

/-- Settles O13: what PBUILD stores to P reads back as the permutation it built, and it stores N entries. -/
theorem pbuildBuildsPermutation : Obligations.PbuildBuildsPermutation := by
  refine ⟨decode_eq_ok_iff_eq rfl, fun s => ⟨fun h hks => ?completes, abortsWith_size nofun, abortsWith_noKs_pbuild⟩⟩
  case completes =>
    refine ⟨_, exec_pbuild h hks, rfl, tableRange_storeP_build h _, fun i hi => ?_⟩
    rw [readP_finish, readP_setValid, readP_storeP, if_neg (by simpa using hi)]

/-- Settles O27: every round of `build` swaps two entries; a PBUILD that does not abort has passed SIZE and NO_KS. -/
theorem buildIsBijection : Obligations.BuildIsBijection := by
  refine ⟨build_perm_range, fun s t _ hexec herr => ?completes, fun n => build_of_zero_draws (by simp) (n + 1)⟩
  case completes =>
    have habort : ∀ c, ¬ AbortsWith .pbuild s c := not_abortsWith_of_err_eq_false hexec herr
    have hsize : s.N ≤ s.nMax := Nat.not_lt.mp fun h => habort .size (abortsWith_size nofun h)
    have hks : s.ksValid = true := by
      by_contra h
      exact habort .noKs (abortsWith_noKs_pbuild hsize (Bool.eq_false_of_not_eq_true h))
    obtain rfl := Host.Outcome.next.inj ((exec_pbuild hsize hks).symm.trans hexec)
    have hP : IsBijection (storeP (build s.N (ksRange s 0 s.N)) s) .P := by
      rw [IsBijection, storeP_N, tableRange_storeP_build hsize]
      exact build_perm_range _ _
    exact ⟨rfl, hsize, hP⟩

/-! ## PINV (R152) -/

/-- What PINV stores to Q, in the form `executePinv` writes it: `i` at index P[i], for each i < N. -/
abbrev inverseEntries (s : State) : List (Nat × Nat) := (tableRange s .P s.N).zip (List.range s.N)

section pinv
variable {s : State}

theorem map_fst_inverseEntries (s : State) : (inverseEntries s).map Prod.fst = tableRange s .P s.N :=
  List.map_fst_zip (by simp)

/-- The words of a bijection are below N, so each names an element of Q and PINV does not stop. -/
theorem exec_pinv (h : s.N ≤ s.nMax) (hp : s.pValid = true) (hP : IsBijection s .P) :
    exec .pinv s = .next (finish (validateQ (storeQ (inverseEntries s) s))) := by
  have hcap : inCapacity s (tableRange s .P s.N) = true :=
    (inCapacity_iff _ _).mpr fun _ hj => ((mem_iff_lt_of_perm_range hP).mp hj).trans_le h
  exact exec_of_pass ((check_eq_none_iff .pinv s).mpr
    ⟨failsSize_of_le .pinv h, rfl, rfl, by simp [failsTable, hp], rfl⟩) (whenInCapacity_of_le _ hcap)

theorem abortsWith_noTable_pinv (h : s.N ≤ s.nMax) (hp : s.pValid = false) : AbortsWith .pinv s .noTable :=
  abortsWith_of_check (check_eq_noTable (failsSize_of_le .pinv h) rfl rfl (by simp [failsTable, hp]))

theorem readQ_storeQ_inverseEntries (h : s.N ≤ s.nMax) (hP : IsBijection s .P) {i : Nat} (hi : i < s.N) :
    (readQ (storeQ (inverseEntries s) s) (readP s i).toNat).toNat = i := by
  have hnd : ((inverseEntries s).map Prod.fst).Nodup := by
    rw [map_fst_inverseEntries]; exact nodup_of_perm_range hP
  have hmem : ((readP s i).toNat, i) ∈ inverseEntries s := by
    have hget : (tableRange s .P s.N)[i]? = some (readP s i).toNat :=
      (getElem?_tableRange s .P s.N i).trans (if_pos hi)
    simpa using mem_zip_range hget
  rw [readQ_storeQ_mem s _ hnd hmem, BitVec.toNat_ofNat, Nat.mod_eq_of_lt (hi.trans (N_le_word h))]

theorem readQ_storeQ_inverseEntries_of_ge (hP : IsBijection s .P) {j : Nat} (hj : s.N ≤ j) :
    readQ (storeQ (inverseEntries s) s) j = readQ s j := by
  refine readQ_storeQ_other s _ ?_
  rw [map_fst_inverseEntries, mem_iff_lt_of_perm_range hP]
  exact Nat.not_lt.mpr hj

theorem tableRange_storeQ_inverseEntries (h : s.N ≤ s.nMax) (hP : IsBijection s .P) :
    tableRange (storeQ (inverseEntries s) s) .Q s.N = invert (tableRange s .P s.N) := by
  refine eq_invert_of_getElem? hP (length_tableRange _ _ _) fun i j hij => ?_
  obtain ⟨hi, hj⟩ := lt_of_getElem?_of_perm_range hP hij
  rw [getElem?_tableRange, if_pos hi] at hij
  obtain rfl := Option.some.inj hij
  rw [getElem?_tableRange, if_pos hj]
  exact congrArg some (readQ_storeQ_inverseEntries h hP hi)

end pinv

/-- Settles O14: the entries PINV stores are those of `invert`, because they put `i` at index P[i]. -/
theorem pinvInvertsPermutation : Obligations.PinvInvertsPermutation := by
  refine ⟨decode_eq_ok_iff_eq rfl, fun s => ⟨fun h hp hP => ?completes, abortsWith_size nofun,
    abortsWith_noTable_pinv⟩⟩
  case completes =>
    exact ⟨_, exec_pinv h hp hP, rfl, tableRange_storeQ_inverseEntries h hP,
      fun _ => readQ_storeQ_inverseEntries h hP, fun _ => readQ_storeQ_inverseEntries_of_ge hP⟩

/-! ## PCHK (R154, R155) -/

section pchk
variable {s : State}

theorem holdsPerm_iff (s : State) : holdsPerm s = true ↔ IsBijection s .P :=
  isPerm_iff_perm_range (length_tableRange _ _ _)

theorem exec_pchk (h : s.N ≤ s.nMax) (hP : IsBijection s .P) : exec .pchk s = .next (finish (validateP s)) :=
  exec_of_pass ((check_eq_none_iff .pchk s).mpr
    ⟨failsSize_of_le .pchk h, rfl, rfl, rfl, by simp [failsPerm, (holdsPerm_iff s).mpr hP]⟩) rfl

theorem abortsWith_notPerm_pchk (h : s.N ≤ s.nMax) (hP : ¬ IsBijection s .P) : AbortsWith .pchk s .notPerm := by
  have hperm : holdsPerm s = false := Bool.eq_false_of_not_eq_true (mt (holdsPerm_iff s).mp hP)
  exact abortsWith_of_check (check_eq_notPerm (failsSize_of_le .pchk h) rfl rfl rfl (by simp [failsPerm, hperm]))

/-- Where P_VALID = 1 says what it means, PCHK finds the bijection and sets the bit that is set already. -/
theorem exec_pchk_of_pValid (hmean : PValidMeaning s) (hp : s.pValid = true) : exec .pchk s = .next (finish s) := by
  obtain ⟨hsize, hP⟩ := hmean hp
  have hsame : validateP s = s := by cases s; cases hp; rfl
  rw [exec_pchk hsize hP, hsame]

end pchk

/-- Settles O15: PCHK's only checks are SIZE and the bijection test, and P_VALID = 1 lets it pass both (R49). -/
theorem pchkChecksPermutation : Obligations.PchkChecksPermutation := by
  refine ⟨decode_eq_ok_iff_eq rfl, fun s => ⟨exec_pchk, abortsWith_size nofun, abortsWith_notPerm_pchk,
    fun hinv => exec_pchk_of_pValid hinv.pOk, fun hinv herr habort => ?_⟩⟩
  by_contra hp
  have hexec := exec_pchk_of_pValid hinv.pOk (Bool.eq_true_of_not_eq_false hp)
  exact not_abortsWith_of_err_eq_false hexec herr .notPerm habort

end Sys2Proof.Machine
end

section
/-! Scatter and unscatter: the two functions on lists, and the commands SCAT and GATH over them: the obligations O16, O17,
O31 and O32 (spec/43_scatter.md R161 to R167). -/

namespace Sys2Proof.Machine

/-! ## `scatter` and `unscatter` (R161, R164, R166) -/

section lists
variable {α : Type} {x l l' : List α} {P : List Nat} {n : Nat}

/-- A bijection reaches every index, so lists that agree at its values are equal. -/
theorem eq_of_getElem?_values (h : P.Perm (List.range n)) (hl : l.length = n) (hl' : l'.length = n)
    (heq : ∀ i j : Nat, P[i]? = some j → l[j]? = l'[j]?) : l = l' := by
  refine List.ext_getElem? fun j => ?_
  rcases Nat.lt_or_ge j n with hj | hj
  · obtain ⟨i, hi⟩ := exists_getElem?_of_lt h hj
    exact heq i j hi
  · rw [List.getElem?_eq_none (hl ▸ hj), List.getElem?_eq_none (hl' ▸ hj)]

/-- `out[P[i]] = x[i]`: no other store of `scatter` reaches entry P[i]. -/
theorem getElem?_scatter (h : P.Perm (List.range n)) (hx : x.length = n) {i j : Nat} (hi : P[i]? = some j) :
    (scatter x P)[j]? = x[i]? := by
  obtain ⟨hin, hjn⟩ := lt_of_getElem?_of_perm_range h hi
  obtain ⟨v, hv⟩ : ∃ v, x[i]? = some v := ⟨_, List.getElem?_eq_getElem (hx.symm ▸ hin)⟩
  have hfst : (P.zip x).map Prod.fst = P := List.map_fst_zip (by rw [length_of_perm_range h, hx])
  have hnd : ((P.zip x).map Prod.fst).Nodup := hfst.symm ▸ nodup_of_perm_range h
  have hmem : (j, v) ∈ P.zip x := List.mem_of_getElem? (List.getElem?_zip_eq_some.mpr ⟨hi, hv⟩)
  rw [hv]
  exact getElem?_storeEach_mem x _ hnd (hx ▸ hjn) hmem

/-- The scattered list is the only one of its length with `x[i]` at P[i]. -/
theorem eq_scatter_of_getElem? (h : P.Perm (List.range n)) (hx : x.length = n) (hl : l.length = n)
    (hget : ∀ i j : Nat, P[i]? = some j → l[j]? = x[i]?) : l = scatter x P :=
  eq_of_getElem?_values h hl (by rw [length_scatter, hx]) fun i j hi =>
    (hget i j hi).trans (getElem?_scatter h hx hi).symm

/-- Every index of a bijection names an element of `x`, so `unscatter` leaves none out. -/
theorem map_some_unscatter (h : P.Perm (List.range n)) (hx : x.length = n) :
    (unscatter x P).map some = P.map (x[·]?) := by
  rw [unscatter, List.map_filterMap_some_eq_filter_map_isSome, List.filter_eq_self]
  intro o ho
  obtain ⟨j, hj, rfl⟩ := List.mem_map.mp ho
  have hjn : j < n := (mem_iff_lt_of_perm_range h).mp hj
  simpa [hx] using hjn

theorem length_unscatter (h : P.Perm (List.range n)) (hx : x.length = n) : (unscatter x P).length = n := by
  have hlen := congrArg List.length (map_some_unscatter h hx)
  simpa [length_of_perm_range h] using hlen

/-- `out[i] = x[P[i]]`. -/
theorem getElem?_unscatter (h : P.Perm (List.range n)) (hx : x.length = n) {i j : Nat} (hi : P[i]? = some j) :
    (unscatter x P)[i]? = x[j]? := by
  have hget : ((unscatter x P).map some)[i]? = some x[j]? := by
    rw [map_some_unscatter h hx, List.getElem?_map, hi, Option.map_some]
  obtain ⟨v, hv, hvj⟩ := Option.map_eq_some_iff.mp (List.getElem?_map ▸ hget)
  rw [hv, hvj]

/-- The unscattered list is the only one of its length with `x[P[i]]` at `i`: the inverse of P reaches every index. -/
theorem eq_unscatter_of_getElem? (h : P.Perm (List.range n)) (hx : x.length = n) (hl : l.length = n)
    (hget : ∀ i j : Nat, P[i]? = some j → l[i]? = x[j]?) : l = unscatter x P := by
  refine eq_of_getElem?_values (invert_perm_range h) hl (length_unscatter h hx) fun j i hq => ?_
  have hi : P[i]? = some j := (getElem?_invert_iff h).mp hq
  rw [hget i j hi, getElem?_unscatter h hx hi]

theorem scatter_unscatter (h : P.Perm (List.range n)) (hx : x.length = n) : scatter (unscatter x P) P = x :=
  (eq_scatter_of_getElem? h (length_unscatter h hx) hx fun _ _ hi => (getElem?_unscatter h hx hi).symm).symm

theorem unscatter_scatter (h : P.Perm (List.range n)) (hx : x.length = n) : unscatter (scatter x P) P = x :=
  (eq_unscatter_of_getElem? h (by rw [length_scatter, hx]) hx fun _ _ hi => (getElem?_scatter h hx hi).symm).symm

/-- Scattering by the inverse puts `x[P[i]]` at `i` (R167). -/
theorem unscatter_eq_scatter_invert (h : P.Perm (List.range n)) (hx : x.length = n) :
    unscatter x P = scatter x (invert P) :=
  (eq_unscatter_of_getElem? h hx (by rw [length_scatter, hx]) fun _ _ hi =>
    getElem?_scatter (invert_perm_range h) hx (getElem?_invert h hi)).symm

end lists

/-- Settles O31: each round trip holds because the source is the one list with the entries that `scatter` or `unscatter`
gives. -/
theorem scatterRoundTrips : Obligations.ScatterRoundTrips := by
  refine fun x P h => ⟨length_scatter x P, length_unscatter h rfl,
    fun i j hi => ⟨getElem?_scatter h rfl hi, getElem?_unscatter h rfl hi⟩, scatter_unscatter h rfl,
    unscatter_scatter h rfl, ?_⟩
  rw [← unscatter_eq_scatter_invert h (length_scatter x P), unscatter_scatter h rfl]

/-! ## The words of commands with operands (R90, R100) -/

theorem toNat_formatC (op : BitVec 8) (src dst : BitVec 2) (t : BitVec 1) :
    (formatC op src dst t).toNat = op.toNat + 2 ^ 8 * src.toNat + 2 ^ 10 * dst.toNat + 2 ^ 12 * t.toNat := by
  simp only [formatC, toNat_append_eq_add, BitVec.toNat_ofNat]
  omega

@[simp] theorem toNat_fieldOfBuf (b : BufId) : (fieldOfBuf b).toNat = bufNumber b := by cases b <;> rfl

@[simp] theorem toNat_fieldOfTable (t : Table) : (fieldOfTable t).toNat = tableNumber t := by cases t <;> rfl

/-! ## SCAT and GATH (R162, R165) -/

section commands
variable {s : State} {a b : BufId} {tb : Table}

theorem toNat_encode_scat (a b : BufId) (tb : Table) :
    (encode (.scat a b tb)).toNat = 0x10 + 2 ^ 8 * bufNumber a + 2 ^ 10 * bufNumber b + 2 ^ 12 * tableNumber tb := by
  simp [encode, toNat_formatC, opcodeOf]

theorem toNat_encode_gath (a b : BufId) (tb : Table) :
    (encode (.gath a b tb)).toNat = 0x11 + 2 ^ 8 * bufNumber a + 2 ^ 10 * bufNumber b + 2 ^ 12 * tableNumber tb := by
  simp [encode, toNat_formatC, opcodeOf]

/-- SCAT and GATH share their checks: SIZE, ALIAS, and NO_TABLE on the selected table (R111). -/
theorem check_of_scat_or_gath {i : Instr} (hi : i = .scat a b tb ∨ i = .gath a b tb) :
    check i s = if s.nMax < s.N then some .size else if a = b then some .aliasing
      else if tableValid s tb = false then some .noTable else none := by
  rcases hi with rfl | rfl <;> simp [check, failsSize, failsAlias, failsKs, failsTable, failsPerm]

/-- The words of the selected table are below N, so each names an element of a buffer. -/
theorem inCapacity_tableRange (h : s.N ≤ s.nMax) (hT : IsBijection s tb) :
    inCapacity s (tableRange s tb s.N) = true :=
  (inCapacity_iff _ _).mpr fun _ hj => ((mem_iff_lt_of_perm_range hT).mp hj).trans_le h

theorem getElem?_tableRange_of_lt {i : Nat} (hi : i < s.N) :
    (tableRange s tb s.N)[i]? = some (readTable s tb i).toNat :=
  (getElem?_tableRange s tb s.N i).trans (if_pos hi)

/-- An entry of the selected table is its word at an index below N, and names an index below N. -/
theorem lt_and_eq_of_getElem?_tableRange (hT : IsBijection s tb) {i j : Nat}
    (hij : (tableRange s tb s.N)[i]? = some j) : i < s.N ∧ j < s.N ∧ j = (readTable s tb i).toNat := by
  obtain ⟨hi, hj⟩ := lt_of_getElem?_of_perm_range hT hij
  exact ⟨hi, hj, Option.some.inj (hij.symm.trans (getElem?_tableRange_of_lt hi))⟩

/-- What SCAT stores to BUF[dst], in the form `executeScat` writes it: BUF[src][i] at index T[i], for each i < N. -/
abbrev scatteredEntries (s : State) (a : BufId) (tb : Table) : List (Nat × Pixel) :=
  (tableRange s tb s.N).zip (bufRange s a s.N)

/-- What GATH stores to BUF[dst], in the form `executeGath` writes it: BUF[src][T[i]] at index i, for each i < N. -/
abbrev gatheredEntries (s : State) (a : BufId) (tb : Table) : List (Nat × Pixel) :=
  numbered ((tableRange s tb s.N).map (readBuf s a))

theorem exec_scat (h : s.N ≤ s.nMax) (hab : a ≠ b) (hv : tableValid s tb = true) (hT : IsBijection s tb) :
    exec (.scat a b tb) s = .next (finish (storeBuf b (scatteredEntries s a tb) s)) :=
  exec_of_pass (by simp [check_of_scat_or_gath (.inl rfl), h, hab, hv])
    (whenInCapacity_of_le _ (inCapacity_tableRange h hT))

theorem exec_gath (h : s.N ≤ s.nMax) (hab : a ≠ b) (hv : tableValid s tb = true) (hT : IsBijection s tb) :
    exec (.gath a b tb) s = .next (finish (storeBuf b (gatheredEntries s a tb) s)) :=
  exec_of_pass (by simp [check_of_scat_or_gath (.inr rfl), h, hab, hv])
    (whenInCapacity_of_le _ (inCapacity_tableRange h hT))

section aborts
variable {i : Instr}

theorem abortsWith_aliasing_of_scat_or_gath (hi : i = .scat a a tb ∨ i = .gath a a tb) (h : s.N ≤ s.nMax) :
    AbortsWith i s .aliasing :=
  abortsWith_of_check (by simp [check_of_scat_or_gath hi, h])

theorem abortsWith_noTable_of_scat_or_gath (hi : i = .scat a b tb ∨ i = .gath a b tb) (h : s.N ≤ s.nMax) (hab : a ≠ b)
    (hv : tableValid s tb = false) : AbortsWith i s .noTable :=
  abortsWith_of_check (by simp [check_of_scat_or_gath hi, h, hab, hv])

end aborts

/-! ### BUF[dst] after SCAT -/

theorem map_fst_scatteredEntries (s : State) (a : BufId) (tb : Table) :
    (scatteredEntries s a tb).map Prod.fst = tableRange s tb s.N :=
  List.map_fst_zip (by simp)

theorem readBuf_storeBuf_scatteredEntries (hT : IsBijection s tb) {i : Nat} (hi : i < s.N) :
    readBuf (storeBuf b (scatteredEntries s a tb) s) b (readTable s tb i).toNat = readBuf s a i := by
  have hnd : ((scatteredEntries s a tb).map Prod.fst).Nodup := by
    rw [map_fst_scatteredEntries]; exact nodup_of_perm_range hT
  have hsrc : (bufRange s a s.N)[i]? = some (readBuf s a i) := (getElem?_bufRange s a s.N i).trans (if_pos hi)
  have hmem : ((readTable s tb i).toNat, readBuf s a i) ∈ scatteredEntries s a tb :=
    List.mem_of_getElem? (List.getElem?_zip_eq_some.mpr ⟨getElem?_tableRange_of_lt hi, hsrc⟩)
  exact readBuf_storeBuf_mem s b _ hnd hmem

theorem readBuf_storeBuf_scatteredEntries_of_ge (hT : IsBijection s tb) {j : Nat} (hj : s.N ≤ j) :
    readBuf (storeBuf b (scatteredEntries s a tb) s) b j = readBuf s b j := by
  refine readBuf_storeBuf_other s b _ ?_
  rw [map_fst_scatteredEntries, mem_iff_lt_of_perm_range hT]
  exact Nat.not_lt.mpr hj

theorem bufRange_storeBuf_scatteredEntries (hT : IsBijection s tb) :
    bufRange (storeBuf b (scatteredEntries s a tb) s) b s.N =
      scatter (bufRange s a s.N) (tableRange s tb s.N) := by
  refine eq_scatter_of_getElem? hT (length_bufRange s a s.N) (length_bufRange _ b s.N) fun i j hij => ?_
  obtain ⟨hi, hj, rfl⟩ := lt_and_eq_of_getElem?_tableRange hT hij
  rw [getElem?_bufRange, if_pos hj, getElem?_bufRange, if_pos hi, readBuf_storeBuf_scatteredEntries hT hi]

/-! ### BUF[dst] after GATH -/

theorem readBuf_storeBuf_gatheredEntries (s : State) (a b : BufId) (tb : Table) (i : Nat) :
    readBuf (storeBuf b (gatheredEntries s a tb) s) b i =
      if i < s.N then readBuf s a (readTable s tb i).toNat else readBuf s b i := by
  rw [readBuf_storeBuf_numbered, List.getElem?_map, getElem?_tableRange]
  split <;> rfl

theorem bufRange_storeBuf_gatheredEntries (hT : IsBijection s tb) :
    bufRange (storeBuf b (gatheredEntries s a tb) s) b s.N =
      unscatter (bufRange s a s.N) (tableRange s tb s.N) := by
  refine eq_unscatter_of_getElem? hT (length_bufRange s a s.N) (length_bufRange _ b s.N) fun i j hij => ?_
  obtain ⟨hi, hj, rfl⟩ := lt_and_eq_of_getElem?_tableRange hT hij
  rw [getElem?_bufRange, if_pos hi, getElem?_bufRange, if_pos hj, readBuf_storeBuf_gatheredEntries, if_pos hi]

end commands

/-- Settles O16: the table is a bijection, so SCAT stores each BUF[src][i] at an index of its own, and none at or beyond
N. -/
theorem scatScattersBuffer : Obligations.ScatScattersBuffer := by
  refine fun s a b tb => ⟨toNat_encode_scat a b tb, fun h hab hv hT => ?completes, abortsWith_size nofun,
    abortsWith_aliasing_of_scat_or_gath (.inl rfl), abortsWith_noTable_of_scat_or_gath (.inl rfl)⟩
  case completes =>
    exact ⟨_, exec_scat h hab hv hT, rfl, fun _ => get_storeBuf_ne s _, bufRange_storeBuf_scatteredEntries hT,
      fun _ => readBuf_storeBuf_scatteredEntries hT, fun _ => readBuf_storeBuf_scatteredEntries_of_ge hT⟩

/-- Settles O17: GATH stores BUF[src][T[i]] at index i for each i < N, the entries that `unscatter` lists. -/
theorem gathGathersBuffer : Obligations.GathGathersBuffer := by
  refine fun s a b tb => ⟨toNat_encode_gath a b tb, fun h hab hv hT => ?completes, abortsWith_size nofun,
    abortsWith_aliasing_of_scat_or_gath (.inr rfl), abortsWith_noTable_of_scat_or_gath (.inr rfl)⟩
  case completes =>
    refine ⟨_, exec_gath h hab hv hT, rfl, fun _ => get_storeBuf_ne s _, bufRange_storeBuf_gatheredEntries hT,
      fun i hi => ?_, fun j hj => ?_⟩
    · rw [readBuf_finish, readBuf_storeBuf_gatheredEntries, if_pos hi]
    · rw [readBuf_finish, readBuf_storeBuf_gatheredEntries, if_neg (Nat.not_lt.mpr hj)]

/-! ## GATH by one table and SCAT by the other (R167) -/

/-- Q_VALID = 1 says that Q is the inverse of P (R49). -/
theorem tableRange_q_of_qValid {s : State} (hmean : QValidMeaning s) (hq : s.qValid = true) (hP : IsBijection s .P) :
    tableRange s .Q s.N = invert (tableRange s .P s.N) := by
  obtain ⟨-, hinverse⟩ := hmean hq
  refine eq_invert_of_getElem? hP (length_tableRange s .Q s.N) fun i j hij => ?_
  obtain ⟨hi, hj, rfl⟩ := lt_and_eq_of_getElem?_tableRange hP hij
  exact (getElem?_tableRange_of_lt hj).trans (congrArg some (hinverse i hi))

/-- Where the table `u` is the inverse of the bijection `t`, GATH by `t` and SCAT by `u` write the same pixels. -/
theorem exists_exec_gath_scat_of_inverse {s : State} {a b : BufId} {t u : Table} (h : s.N ≤ s.nMax) (hab : a ≠ b)
    (ht : tableValid s t = true) (hu : tableValid s u = true) (hT : IsBijection s t)
    (hinv : tableRange s u s.N = invert (tableRange s t s.N)) :
    ∃ v w, exec (.gath a b t) s = .next v ∧ exec (.scat a b u) s = .next w ∧ bufRange v b s.N = bufRange w b s.N := by
  have hU : IsBijection s u := by rw [IsBijection, hinv]; exact invert_perm_range hT
  refine ⟨_, _, exec_gath h hab ht hT, exec_scat h hab hu hU, ?_⟩
  calc bufRange (storeBuf b (gatheredEntries s a t) s) b s.N
    _ = unscatter (bufRange s a s.N) (tableRange s t s.N) := bufRange_storeBuf_gatheredEntries hT
    _ = scatter (bufRange s a s.N) (tableRange s u s.N) := by
      rw [hinv, unscatter_eq_scatter_invert hT (length_bufRange s a s.N)]
    _ = bufRange (storeBuf b (scatteredEntries s a u) s) b s.N := (bufRange_storeBuf_scatteredEntries hU).symm

/-- Settles O32: with the invariant the valid tables are inverse to each other, Q to P and P to Q. -/
theorem unscatterIsScatterByInverse : Obligations.UnscatterIsScatterByInverse := by
  refine ⟨fun x P h => unscatter_eq_scatter_invert h rfl, fun s a b hinv hp hq hab => ?_⟩
  obtain ⟨hsize, hP⟩ := hinv.pOk hp
  have hQP : tableRange s .Q s.N = invert (tableRange s .P s.N) := tableRange_q_of_qValid hinv.qOk hq hP
  have hQ : IsBijection s .Q := by rw [IsBijection, hQP]; exact invert_perm_range hP
  have hPQ : tableRange s .P s.N = invert (tableRange s .Q s.N) := by rw [hQP, invert_invert hP]
  obtain ⟨t, u, hgath, hscat, hsame⟩ :=
    exists_exec_gath_scat_of_inverse (t := .P) (u := .Q) hsize hab hp hq hP hQP
  obtain ⟨t', u', hgath', hscat', hsame'⟩ :=
    exists_exec_gath_scat_of_inverse (t := .Q) (u := .P) hsize hab hq hp hQ hPQ
  exact ⟨t, u, t', u', hgath, hscat, hgath', hscat', hsame, hsame'⟩

end Sys2Proof.Machine
end

section
/-! The chain cipher: one pixel, the two chains on lists, and the commands CFWD and CREV over them: the obligations O18,
O19, O33, O35, O36 and O38 (spec/44_chain_cipher.md R170 to R180). -/

namespace Sys2Proof.Machine

/-! ## One pixel (R170, R171, R173) -/

section pixel
variable (p x : Pixel) (k : Word)

/-- Bits 31:8 of the keystream word do not reach the lane. -/
theorem mixLane_eq (a b : Byte) (w : Word) : mixLane a b w = a ^^^ b ^^^ lo8 w := by
  ext i hi
  have hword : i < 32 := hi.trans (by decide)
  simp [mixLane, lo8, hi, hword]

theorem mixLane_mixLane (a b : Byte) (w : Word) : mixLane a (mixLane a b w) w = b := by
  simp [mixLane_eq, BitVec.xor_assoc]

theorem lane_mixPixel {lane : Pixel → Byte} (h : lane ∈ [Pixel.c0, Pixel.c1, Pixel.c2]) :
    lane (mixPixel p x k) = lane p ^^^ (lane x ^^^ lo8 k) := by
  simp only [List.mem_cons, List.not_mem_nil, or_false] at h
  rcases h with rfl | rfl | rfl <;> simp [mixPixel, mixLane_eq, BitVec.xor_assoc]

theorem mixPixel_congr_lo8 {k k' : Word} (h : lo8 k = lo8 k') : mixPixel p x k = mixPixel p x k' := by
  simp [mixPixel, mixLane_eq, h]

theorem mixPixel_comm : mixPixel p x k = mixPixel x p k := by
  simp [mixPixel, mixLane_eq, BitVec.xor_comm]

/-- Mixing twice with the same neighbour and the same keystream word restores the pixel (R178). -/
@[simp] theorem mixPixel_mixPixel : mixPixel p (mixPixel p x k) k = x := by
  simp [mixPixel, mixLane_mixLane]

variable {p x k} {q y : Pixel}

theorem mixPixel_right_inj : mixPixel p x k = mixPixel p y k ↔ x = y := by
  have hinj : Function.Injective fun z => mixPixel p z k :=
    Function.LeftInverse.injective (g := fun z => mixPixel p z k) fun z => mixPixel_mixPixel p z k
  exact hinj.eq_iff

theorem mixPixel_left_inj : mixPixel p x k = mixPixel q x k ↔ p = q := by
  rw [mixPixel_comm p, mixPixel_comm q, mixPixel_right_inj]

/-- The octets of START are the lanes of START read as a pixel, so only bits 23:0 take part. -/
theorem startOctets_congr {s s' : Word} (h : s.toNat % 2 ^ 24 = s'.toNat % 2 ^ 24) :
    startOctets s = startOctets s' := by
  have hword : pixelToWord (startOctets s) = pixelToWord (startOctets s') := by
    apply BitVec.eq_of_toNat_eq
    simpa only [← wordToPixel_eq_startOctets, toNat_pixelToWord_wordToPixel] using h
  simpa only [wordToPixel_pixelToWord] using congrArg wordToPixel hword

end pixel

/-! ## The chains (R171, R176) -/

section chains
variable {prev p q : Pixel} {x : List Pixel} {k : Word} {ks ks' : List Word} {i j : Nat}

theorem chainForward_congr_lo8 (h : ks.map lo8 = ks'.map lo8) :
    chainForward prev x ks = chainForward prev x ks' := by
  induction x generalizing prev ks ks' with
  | nil => rfl
  | cons p x ih =>
    match ks, ks', h with
    | [], [], _ => rfl
    | k :: ks, k' :: ks', h =>
      obtain ⟨hk, hks⟩ := List.cons.inj h
      simp only [chainForward, mixPixel_congr_lo8 prev p hk, ih hks]

theorem chainReverse_congr_lo8 (h : ks.map lo8 = ks'.map lo8) :
    chainReverse prev x ks = chainReverse prev x ks' := by
  induction x generalizing prev ks ks' with
  | nil => rfl
  | cons p x ih =>
    match ks, ks', h with
    | [], [], _ => rfl
    | k :: ks, k' :: ks', h =>
      obtain ⟨hk, hks⟩ := List.cons.inj h
      simp only [chainReverse, mixPixel_congr_lo8 prev p hk, ih hks]

/-- Pixel i of the forward chain is mixed with the RESULT pixel before it, the first with `prev`. -/
theorem getElem?_chainForward (hq : (prev :: chainForward prev x ks)[i]? = some q) (hp : x[i]? = some p)
    (hk : ks[i]? = some k) : (chainForward prev x ks)[i]? = some (mixPixel q p k) := by
  induction i generalizing prev x ks with
  | zero =>
    match x, ks, hp, hk with
    | _ :: _, _ :: _, rfl, rfl => simpa [chainForward, mixPixel_left_inj] using hq
  | succ i ih =>
    match x, ks, hp, hk with
    | _ :: _, _ :: _, hp, hk => exact ih hq hp hk

/-- Pixel i of the reverse chain is mixed with the INPUT pixel before it, the first with `prev`. -/
theorem getElem?_chainReverse (hq : (prev :: x)[i]? = some q) (hp : x[i]? = some p) (hk : ks[i]? = some k) :
    (chainReverse prev x ks)[i]? = some (mixPixel q p k) := by
  induction i generalizing prev x ks with
  | zero =>
    match x, ks, hp, hk with
    | _ :: _, _ :: _, rfl, rfl => simpa [chainReverse, mixPixel_left_inj] using hq
  | succ i ih =>
    match x, ks, hp, hk with
    | _ :: _, _ :: _, hp, hk => exact ih hq hp hk

/-- The reverse chain mixes each result of the forward chain with the very neighbour that made it. -/
theorem chainReverse_chainForward (h : ks.length = x.length) :
    chainReverse prev (chainForward prev x ks) ks = x := by
  induction x generalizing prev ks with
  | nil => rfl
  | cons p x ih =>
    match ks, h with
    | k :: ks, h => simp [chainForward, chainReverse, ih (Nat.succ.inj h)]

/-- The forward chain over a reversed list has the list's own pixels as its results, which are the neighbours the
reverse chain mixed in. -/
theorem chainForward_chainReverse (h : ks.length = x.length) :
    chainForward prev (chainReverse prev x ks) ks = x := by
  induction x generalizing prev ks with
  | nil => rfl
  | cons p x ih =>
    match ks, h with
    | k :: ks, h => simp [chainForward, chainReverse, ih (Nat.succ.inj h)]

/-- Unrolled, the chain sums `prev`, the input pixels and the low keystream bytes up to `i`, lane by lane (R175). -/
theorem lane_getElem?_chainForward {lane : Pixel → Byte} (hlane : lane ∈ [Pixel.c0, Pixel.c1, Pixel.c2]) {c : Pixel}
    (h : (chainForward prev x ks)[i]? = some c) :
    lane c = ((x.zip ks).take (i + 1)).foldl (fun acc e => acc ^^^ (lane e.1 ^^^ lo8 e.2)) (lane prev) := by
  induction i generalizing prev x ks with
  | zero =>
    match x, ks, h with
    | p :: _, k :: _, rfl => simpa using lane_mixPixel prev p k hlane
  | succ i ih =>
    match x, ks, h with
    | p :: x, k :: ks, h =>
      rw [ih h, lane_mixPixel prev p k hlane, List.zip_cons_cons, List.take_succ_cons, List.foldl_cons]

/-- A difference in the pixel before the chain reaches every result. -/
theorem getElem?_chainForward_ne_of_prev_ne (hpq : p ≠ q) (hx : i < x.length) (hks : i < ks.length) :
    (chainForward p x ks)[i]? ≠ (chainForward q x ks)[i]? := by
  induction i generalizing p q x ks with
  | zero =>
    match x, ks, hx, hks with
    | _ :: _, _ :: _, _, _ => simpa [chainForward, mixPixel_left_inj] using hpq
  | succ i ih =>
    match x, ks, hx, hks with
    | _ :: _, _ :: _, hx, hks =>
      exact ih (mt mixPixel_left_inj.mp hpq) (Nat.lt_of_succ_lt_succ hx) (Nat.lt_of_succ_lt_succ hks)

/-- Another input pixel at `j` leaves the results before `j` as they are, and changes every result from `j` on. -/
theorem getElem?_chainForward_set_eq_iff {y : Pixel} (hj : j < x.length) (hy : x[j]? ≠ some y) (hx : i < x.length)
    (hks : i < ks.length) : (chainForward prev (x.set j y) ks)[i]? = (chainForward prev x ks)[i]? ↔ i < j := by
  induction j generalizing prev x ks i with
  | zero =>
    match x, ks, hx, hks with
    | p :: x, k :: ks, hx, hks =>
      have hne : mixPixel prev y k ≠ mixPixel prev p k := by simpa [mixPixel_right_inj, eq_comm] using hy
      cases i with
      | zero => simpa [chainForward] using hne
      | succ i =>
        have hdiff := getElem?_chainForward_ne_of_prev_ne hne (Nat.lt_of_succ_lt_succ hx) (Nat.lt_of_succ_lt_succ hks)
        simpa [chainForward] using hdiff
  | succ j ih =>
    match x, ks, hj, hx, hks with
    | p :: x, k :: ks, hj, hx, hks =>
      cases i with
      | zero => simp [chainForward]
      | succ i =>
        have htail := ih (prev := mixPixel prev p k) (Nat.lt_of_succ_lt_succ hj) hy (Nat.lt_of_succ_lt_succ hx)
          (Nat.lt_of_succ_lt_succ hks)
        simpa [chainForward] using htail

end chains

/-- Settles O33: the octets are the base-256 digits of START, and `mixLane` reads the keystream word only through
`lo8`. -/
theorem octetsAndLaneWidth : Obligations.OctetsAndLaneWidth := by
  refine ⟨fun s => ?octets, fun x ks ks' s s' hs hks => ?unused, mixLane_eq⟩
  case octets => rw [← wordToPixel_eq_startOctets, wordToPixel_eq]
  case unused =>
    rw [forward, reverse, startOctets_congr hs]
    exact ⟨chainForward_congr_lo8 hks, chainReverse_congr_lo8 hks⟩

/-- Settles O35: the closed form and the reach of a change are those of the chain that starts at the octets. -/
theorem forwardClosedForm : Obligations.ForwardClosedForm := by
  intro x ks s h
  refine ⟨by simp [h], fun lane hlane i c hc => lane_getElem?_chainForward hlane hc, fun j y hj hy i hi => ?_⟩
  exact getElem?_chainForward_set_eq_iff hj hy hi (h.symm ▸ hi)

/-- Settles O36: both chains start at the octets of the same START. -/
theorem chainRoundTrip : Obligations.ChainRoundTrip :=
  fun _ _ _ h => ⟨chainReverse_chainForward h, chainForward_chainReverse h⟩

/-! ## The all-zero image (R180) -/

/-- The pixel of an all-zero image. -/
abbrev zeroPixel : Pixel := ⟨0#8, 0#8, 0#8⟩

section zeroImage
variable {prev : Pixel} {k : Word} {ks : List Word}

theorem mixPixel_zeroPixel_eq_zeroPixel_iff :
    mixPixel prev zeroPixel k = zeroPixel ↔ prev = ⟨lo8 k, lo8 k, lo8 k⟩ := by
  obtain ⟨c0, c1, c2⟩ := prev
  simp [mixPixel, mixLane_eq, BitVec.xor_eq_zero_iff]

/-- After a zero pixel the chain stays at zero exactly while the low keystream bytes are zero. -/
theorem chainForward_zeros_eq_zeros_iff :
    chainForward zeroPixel (List.replicate ks.length zeroPixel) ks = List.replicate ks.length zeroPixel ↔
      ∀ k ∈ ks, lo8 k = 0#8 := by
  induction ks with
  | nil => simp [chainForward]
  | cons k ks ih =>
    rw [List.length_cons, List.replicate_succ, chainForward, List.cons.injEq, List.forall_mem_cons]
    have hfirst : mixPixel zeroPixel zeroPixel k = zeroPixel ↔ lo8 k = 0#8 := by
      rw [mixPixel_zeroPixel_eq_zeroPixel_iff]
      simp [eq_comm]
    rw [← hfirst]
    refine and_congr_right fun hzero => ?_
    rw [hzero, ih]

end zeroImage

/-- Settles O38: the closed form with zero pixels; and the first result is zero exactly when the octets cancel against
the first word, and from there on the chain runs from a zero pixel. -/
theorem zeroImageCondition : Obligations.ZeroImageCondition := by
  refine fun ks s hne => ⟨fun lane hlane i c hc => ?closedForm, ?allZero⟩
  case closedForm =>
    have hzero : lane zeroPixel = 0#8 := by
      simp only [List.mem_cons, List.not_mem_nil, or_false] at hlane
      rcases hlane with rfl | rfl | rfl <;> rfl
    have hzip : (List.replicate ks.length zeroPixel).zip ks = ks.map (zeroPixel, ·) := by
      rw [← List.map_const', ← List.zip_map', List.map_id']
    rw [lane_getElem?_chainForward hlane hc, hzip, ← List.map_take, List.foldl_map]
    simp only [hzero, BitVec.zero_xor]
  case allZero =>
    match ks, hne with
    | k :: ks, _ =>
      rw [forward, List.length_cons, List.replicate_succ, chainForward, List.cons.injEq]
      have hfirst : (∀ w, (k :: ks)[0]? = some w → startOctets s = ⟨lo8 w, lo8 w, lo8 w⟩) ↔
          mixPixel (startOctets s) zeroPixel k = zeroPixel := by
        simp [mixPixel_zeroPixel_eq_zeroPixel_iff]
      rw [hfirst]
      refine and_congr_right fun hzero => ?_
      rw [hzero, chainForward_zeros_eq_zeros_iff]
      rfl

/-! ## CFWD and CREV (R172, R177) -/

section commands
variable {s : State} {a b : BufId} {m n i : Nat}

theorem toNat_encode_cfwd (a b : BufId) :
    (encode (.cfwd a b)).toNat = 0x20 + 2 ^ 8 * bufNumber a + 2 ^ 10 * bufNumber b := by
  simp [encode, toNat_formatC, opcodeOf]

theorem toNat_encode_crev (a b : BufId) :
    (encode (.crev a b)).toNat = 0x21 + 2 ^ 8 * bufNumber a + 2 ^ 10 * bufNumber b := by
  simp [encode, toNat_formatC, opcodeOf]

/-- CFWD and CREV share their checks: SIZE, ALIAS, and NO_KS (R111). -/
theorem check_of_cfwd_or_crev {i : Instr} (hi : i = .cfwd a b ∨ i = .crev a b) :
    check i s = if s.nMax < s.N then some .size else if a = b then some .aliasing
      else if s.ksValid = false then some .noKs else none := by
  rcases hi with rfl | rfl <;> simp [check, failsSize, failsAlias, failsKs, failsTable, failsPerm]

theorem abortsWith_aliasing_of_cfwd_or_crev {i : Instr} (hi : i = .cfwd a a ∨ i = .crev a a) (h : s.N ≤ s.nMax) :
    AbortsWith i s .aliasing :=
  abortsWith_of_check (by simp [check_of_cfwd_or_crev hi, h])

theorem abortsWith_noKs_of_cfwd_or_crev {i : Instr} (hi : i = .cfwd a b ∨ i = .crev a b) (h : s.N ≤ s.nMax)
    (hab : a ≠ b) (hks : s.ksValid = false) : AbortsWith i s .noKs :=
  abortsWith_of_check (by simp [check_of_cfwd_or_crev hi, h, hab, hks])

/-! ### BUF[dst] after a numbered list is stored -/

theorem bufRange_storeBuf_numbered (s : State) (b : BufId) {l : List Pixel} (hl : l.length = n) :
    bufRange (storeBuf b (numbered l) s) b n = l := by
  subst hl
  refine List.ext_getElem (by simp) fun k hk hk' => ?_
  simp [bufRange, readBuf_storeBuf_numbered, hk']

theorem readBuf_storeBuf_numbered_of_ge (s : State) (b : BufId) {l : List Pixel} (hl : l.length = n) (h : n ≤ i) :
    readBuf (storeBuf b (numbered l) s) b i = readBuf s b i := by
  rw [readBuf_storeBuf_numbered, List.getElem?_eq_none (hl ▸ h), Option.getD_none]

/-- The neighbour of pixel `i`: the pixel before it in the buffer, or the given one where there is none. -/
theorem getElem?_cons_bufRange (s : State) (b : BufId) (p : Pixel) (hi : i < n) :
    (p :: bufRange s b n)[i]? = some (if i = 0 then p else readBuf s b (i - 1)) := by
  cases i with
  | zero => rfl
  | succ i => exact (getElem?_bufRange s b n i).trans (if_pos (Nat.lt_of_succ_lt hi))

theorem getElem?_bufRange_of_lt (s : State) (b : BufId) (hi : i < n) :
    (bufRange s b n)[i]? = some (readBuf s b i) :=
  (getElem?_bufRange s b n i).trans (if_pos hi)

theorem getElem?_ksRange_of_lt (s : State) (a : Nat) (hi : i < n) : (ksRange s a n)[i]? = some (readKs s (a + i)) :=
  (getElem?_ksRange s a n i).trans (if_pos hi)

/-! ### CFWD and CREV that pass their checks -/

theorem exec_cfwd (h : s.N ≤ s.nMax) (hab : a ≠ b) (hks : s.ksValid = true) :
    exec (.cfwd a b) s =
      .next (finish (storeBuf b (numbered (forward (bufRange s a s.N) (ksRange s s.N s.N) s.start)) s)) :=
  exec_of_pass (by simp [check_of_cfwd_or_crev (.inl rfl), h, hab, hks]) rfl

theorem exec_crev (h : s.N ≤ s.nMax) (hab : a ≠ b) (hks : s.ksValid = true) :
    exec (.crev a b) s =
      .next (finish (storeBuf b (numbered (reverse (bufRange s a s.N) (ksRange s s.N s.N) s.start)) s)) :=
  exec_of_pass (by simp [check_of_cfwd_or_crev (.inr rfl), h, hab, hks]) rfl

/-- Where BUF[b] of `t` holds the forward chain over BUF[a] of `s`, each pixel is mixed with the one before it in
BUF[b]. -/
theorem readBuf_of_bufRange_eq_forward {t : State} {w : Word}
    (h : bufRange t b n = forward (bufRange s a n) (ksRange s m n) w) (hi : i < n) :
    readBuf t b i =
      mixPixel (if i = 0 then startOctets w else readBuf t b (i - 1)) (readBuf s a i) (readKs s (m + i)) := by
  have hneighbour := getElem?_cons_bufRange t b (startOctets w) hi
  rw [h] at hneighbour
  have hpixel := getElem?_chainForward hneighbour (getElem?_bufRange_of_lt s a hi) (getElem?_ksRange_of_lt s m hi)
  rw [← forward, ← h, getElem?_bufRange_of_lt t b hi] at hpixel
  exact Option.some.inj hpixel

/-- Where BUF[b] of `t` holds the reverse chain over BUF[a] of `s`, each pixel is mixed with the one before it in
BUF[a]. -/
theorem readBuf_of_bufRange_eq_reverse {t : State} {w : Word}
    (h : bufRange t b n = reverse (bufRange s a n) (ksRange s m n) w) (hi : i < n) :
    readBuf t b i =
      mixPixel (if i = 0 then startOctets w else readBuf s a (i - 1)) (readBuf s a i) (readKs s (m + i)) := by
  have hpixel := getElem?_chainReverse (getElem?_cons_bufRange s a (startOctets w) hi)
    (getElem?_bufRange_of_lt s a hi) (getElem?_ksRange_of_lt s m hi)
  rw [← reverse, ← h, getElem?_bufRange_of_lt t b hi] at hpixel
  exact Option.some.inj hpixel

end commands

/-- Settles O18: CFWD stores the forward chain, N pixels long, at [0, N) of BUF[dst]. -/
theorem cfwdChainsForward : Obligations.CfwdChainsForward := by
  refine fun s a b => ⟨toNat_encode_cfwd a b, fun h hab hks => ?completes, abortsWith_size nofun,
    abortsWith_aliasing_of_cfwd_or_crev (.inl rfl), abortsWith_noKs_of_cfwd_or_crev (.inl rfl)⟩
  case completes =>
    have hlen : (forward (bufRange s a s.N) (ksRange s s.N s.N) s.start).length = s.N := by simp
    have hdst := bufRange_storeBuf_numbered s b hlen
    exact ⟨_, exec_cfwd h hab hks, rfl, fun _ => get_storeBuf_ne s _, hdst,
      fun _ => readBuf_of_bufRange_eq_forward hdst, fun _ => readBuf_storeBuf_numbered_of_ge s b hlen⟩

/-- Settles O19: CREV stores the reverse chain, N pixels long, at [0, N) of BUF[dst]. -/
theorem crevChainsReverse : Obligations.CrevChainsReverse := by
  refine fun s a b => ⟨toNat_encode_crev a b, fun h hab hks => ?completes, abortsWith_size nofun,
    abortsWith_aliasing_of_cfwd_or_crev (.inr rfl), abortsWith_noKs_of_cfwd_or_crev (.inr rfl)⟩
  case completes =>
    have hlen : (reverse (bufRange s a s.N) (ksRange s s.N s.N) s.start).length = s.N := by simp
    have hdst := bufRange_storeBuf_numbered s b hlen
    exact ⟨_, exec_crev h hab hks, rfl, fun _ => get_storeBuf_ne s _, hdst,
      fun _ => readBuf_of_bufRange_eq_reverse hdst, fun _ => readBuf_storeBuf_numbered_of_ge s b hlen⟩

end Sys2Proof.Machine
end

section
/-! A command from its CMD write to its completion, and what the commands of the pipeline's decompositions leave then
(spec/30_encoding.md R102, spec/40_command_execution.md R110, R112). -/

namespace Sys2Proof.Machine

/-! ## The decoder reads what the encoder wrote (R90, R100) -/

section formatC
variable (op : BitVec 8) (src dst : BitVec 2) (t : BitVec 1)

theorem opField_formatC : opField (formatC op src dst t) = op := by
  apply BitVec.eq_of_toNat_eq
  rw [toNat_opField, toNat_formatC]
  omega

theorem srcField_formatC : srcField (formatC op src dst t) = src := by
  apply BitVec.eq_of_toNat_eq
  rw [toNat_srcField, toNat_formatC]
  omega

theorem dstField_formatC : dstField (formatC op src dst t) = dst := by
  apply BitVec.eq_of_toNat_eq
  rw [toNat_dstField, toNat_formatC]
  omega

theorem tField_formatC : tField (formatC op src dst t) = t := by
  apply BitVec.eq_of_toNat_eq
  rw [toNat_tField, toNat_formatC]
  omega

end formatC

theorem opField_encode (i : Instr) : opField (encode i) = opcodeOf i := by
  cases i <;> exact opField_formatC _ _ _ _

theorem withOperands_encode (i : Instr) : withOperands (encode i) i = i := by
  cases i <;> simp [withOperands, encode, srcField_formatC, dstField_formatC, tField_formatC]

/-- A command's word has no bit set that the command leaves unused. -/
theorem encode_ushiftRight_usedBits (i : Instr) : encode i >>> usedBits i = 0#32 := by
  rw [ushiftRight_eq_zero_iff_toNat_div]
  cases i <;> simp only [encode, usedBits, toNat_formatC, opcodeOf, BitVec.toNat_ofNat] <;> omega

theorem decode_encode (i : Instr) : decode (encode i) = .ok i := by
  rw [decode_of_opcode (opField_encode i), readFields, if_pos (encode_ushiftRight_usedBits i), withOperands_encode]

/-! ## A command from its CMD write to its completion (R102, R110, R112) -/

/-- The state after the command `i`, from its CMD write to its completion, where its `execute` leaves `u`: acceptance
and completion write nothing but CMD, BUSY, DONE, ERR and CODE. -/
abbrev completed (i : Instr) (u : State) : State := finish (accept (encode i) u)

/-- A CMD write to an idle block is an acceptance, and the block's turn then runs the command that was written. -/
theorem command_of_exec {i : Instr} {s t : State} (hidle : s.busy = false)
    (h : exec i (accept (encode i) s) = .next t) : command i s = .next t := by
  rw [command, hostWrite_cmd_idle _ hidle, andThen, blockStep_of_busy (accept_busy s _), completion, accept_cmd,
    decode_encode]
  exact h

theorem commands_cons {i : Instr} {rest : List Instr} {s t : State} (h : command i s = .next t) :
    commands (i :: rest) s = commands rest t := by
  rw [commands, h, andThen]

/-! ## The ranges a command reads, after an update that does not store into them (R14, R17) -/

section ranges
variable (s : State) (a n : Nat) (b : BufId) (tb : Table)

@[simp] theorem ksRange_accept (w : Word) : ksRange (accept w s) a n = ksRange s a n := rfl
@[simp] theorem bufRange_accept (w : Word) : bufRange (accept w s) b n = bufRange s b n := rfl
@[simp] theorem tableRange_accept (w : Word) : tableRange (accept w s) tb n = tableRange s tb n := by cases tb <;> rfl

@[simp] theorem ksRange_finish : ksRange (finish s) a n = ksRange s a n := rfl
@[simp] theorem bufRange_finish : bufRange (finish s) b n = bufRange s b n := rfl
@[simp] theorem tableRange_finish : tableRange (finish s) tb n = tableRange s tb n := by cases tb <;> rfl

section setValid
variable (k v u : Bool)

@[simp] theorem ksRange_setValid : ksRange (setValid k v u s) a n = ksRange s a n := rfl
@[simp] theorem bufRange_setValid : bufRange (setValid k v u s) b n = bufRange s b n := rfl
@[simp] theorem tableRange_setValid : tableRange (setValid k v u s) tb n = tableRange s tb n := by cases tb <;> rfl
end setValid

@[simp] theorem ksRange_storeP (l : List Nat) : ksRange (storeP l s) a n = ksRange s a n := rfl
@[simp] theorem bufRange_storeP (l : List Nat) : bufRange (storeP l s) b n = bufRange s b n := rfl

section storeQ
variable (l : List (Nat × Nat))

@[simp] theorem ksRange_storeQ : ksRange (storeQ l s) a n = ksRange s a n := rfl
@[simp] theorem bufRange_storeQ : bufRange (storeQ l s) b n = bufRange s b n := rfl
@[simp] theorem tableRange_p_storeQ : tableRange (storeQ l s) .P n = tableRange s .P n := rfl
end storeQ

section storeBuf
variable (l : List (Nat × Pixel))

@[simp] theorem ksRange_storeBuf : ksRange (storeBuf b l s) a n = ksRange s a n := rfl
@[simp] theorem tableRange_storeBuf : tableRange (storeBuf b l s) tb n = tableRange s tb n := by cases tb <;> rfl

theorem bufRange_storeBuf_ne {b c : BufId} (hcb : c ≠ b) : bufRange (storeBuf b l s) c n = bufRange s c n :=
  bufRange_eq_of_read fun k _ => readBuf_storeBuf_ne s l hcb k
end storeBuf

end ranges

/-! ## The commands of the decompositions that pass their checks -/

section commands
variable {s : State} {a b : BufId} {tb : Table} (hidle : s.busy = false) (h : s.N ≤ s.nMax)
include hidle h

theorem command_gen : command .gen s = .next (completed .gen (storeKeystream s)) :=
  command_of_exec hidle (exec_gen (s := accept _ s) h)

theorem command_pbuild (hks : s.ksValid = true) :
    command .pbuild s = .next (completed .pbuild (validateNewP (storeP (build s.N (ksRange s 0 s.N)) s))) :=
  command_of_exec hidle (exec_pbuild (s := accept _ s) h hks)

theorem command_pinv (hp : s.pValid = true) (hP : IsBijection s .P) :
    command .pinv s = .next (completed .pinv (validateQ (storeQ (inverseEntries s) s))) :=
  command_of_exec hidle (exec_pinv (s := accept _ s) h hp hP)

theorem command_scat (hab : a ≠ b) (hv : tableValid s tb = true) (hT : IsBijection s tb) :
    command (.scat a b tb) s = .next (completed (.scat a b tb) (storeBuf b (scatteredEntries s a tb) s)) := by
  cases tb <;> exact command_of_exec hidle (exec_scat (s := accept _ s) h hab hv hT)

theorem command_cfwd (hab : a ≠ b) (hks : s.ksValid = true) :
    command (.cfwd a b) s = .next (completed (.cfwd a b)
      (storeBuf b (numbered (forward (bufRange s a s.N) (ksRange s s.N s.N) s.start)) s)) :=
  command_of_exec hidle (exec_cfwd (s := accept _ s) h hab hks)

theorem command_crev (hab : a ≠ b) (hks : s.ksValid = true) :
    command (.crev a b) s = .next (completed (.crev a b)
      (storeBuf b (numbered (reverse (bufRange s a s.N) (ksRange s s.N s.N) s.start)) s)) :=
  command_of_exec hidle (exec_crev (s := accept _ s) h hab hks)

end commands

end Sys2Proof.Machine
end

section
/-! The pipeline: ENC and DEC, their decompositions, and the round trip: the obligations O20, O21, O39, O40 and O41
(spec/45_pipeline.md R190 to R194). -/

namespace Sys2Proof.Machine

/-! ## KS and P as both compositions leave them (R190, R192) -/

section storeKeystream
variable (s : State)

@[simp] theorem storeKeystream_N : (storeKeystream s).N = s.N := rfl
@[simp] theorem storeKeystream_nMax : (storeKeystream s).nMax = s.nMax := rfl
@[simp] theorem storeKeystream_start : (storeKeystream s).start = s.start := rfl
@[simp] theorem storeKeystream_buf : (storeKeystream s).buf = s.buf := rfl
@[simp] theorem readP_storeKeystream (i : Nat) : readP (storeKeystream s) i = readP s i := by simp [storeKeystream]
@[simp] theorem readQ_storeKeystream (i : Nat) : readQ (storeKeystream s) i = readQ s i := by simp [storeKeystream]

@[simp] theorem readBuf_storeKeystream (b : BufId) (i : Nat) : readBuf (storeKeystream s) b i = readBuf s b i := by
  simp [storeKeystream]

@[simp] theorem bufRange_storeKeystream (b : BufId) (n : Nat) : bufRange (storeKeystream s) b n = bufRange s b n :=
  bufRange_eq_of_read fun k _ => readBuf_storeKeystream s b k

theorem readKs_storeKeystream_of_ge {k : Nat} (hk : 2 * s.N ≤ k) : readKs (storeKeystream s) k = readKs s k := by
  rw [readKs_storeKeystream, if_neg (Nat.not_lt.mpr hk)]

theorem ksRange_storeKeystream_first : ksRange (storeKeystream s) 0 s.N = (keystream s).take s.N := by
  rw [keystream, ← ksRange_storeKeystream, ksRange, ksRange, ← List.map_take, List.take_range]
  simp [two_mul]

theorem ksRange_storeKeystream_second : ksRange (storeKeystream s) s.N s.N = (keystream s).drop s.N := by
  refine List.ext_getElem (by simp [keystream, two_mul]) fun k hk _ => ?_
  have hlt : s.N + k < 2 * s.N := by rw [length_ksRange] at hk; omega
  simp [ksRange, readKs_storeKeystream, hlt, keystream, generate_eq_map]

end storeKeystream

/-- GEN's stores, then PBUILD's: what ENC and DEC both store before the pixels. -/
abbrev storeKey (s : State) : State := storeP (keyPermutation s) (storeKeystream s)

section storeKey
variable {s : State}

theorem build_ksRange_storeKeystream : build s.N (ksRange (storeKeystream s) 0 s.N) = keyPermutation s := by
  rw [ksRange_storeKeystream_first, keyPermutation]

theorem keyPermutation_perm_range : (keyPermutation s).Perm (List.range s.N) := build_perm_range _ _

theorem readP_storeKey_of_ge {i : Nat} (hi : s.N ≤ i) : readP (storeKey s) i = readP s i := by
  rw [readP_storeP, if_neg (by simpa [keyPermutation] using hi), readP_storeKeystream]

theorem tableRange_storeKey (h : s.N ≤ s.nMax) : tableRange (storeKey s) .P s.N = keyPermutation s :=
  tableRange_storeP_build (s := storeKeystream s) h _

theorem isBijection_storeKey (h : s.N ≤ s.nMax) : IsBijection (storeKey s) .P := by
  rw [IsBijection, storeP_N, storeKeystream_N, tableRange_storeKey h]
  exact keyPermutation_perm_range

end storeKey

/-! ## ENC and DEC that pass their checks (R190, R192) -/

section commands
variable {s : State} {a b : BufId} {i : Instr}

theorem toNat_encode_enc (a b : BufId) :
    (encode (.enc a b)).toNat = 0x30 + 2 ^ 8 * bufNumber a + 2 ^ 10 * bufNumber b := by
  simp [encode, toNat_formatC, opcodeOf]

theorem toNat_encode_dec (a b : BufId) :
    (encode (.dec a b)).toNat = 0x31 + 2 ^ 8 * bufNumber a + 2 ^ 10 * bufNumber b := by
  simp [encode, toNat_formatC, opcodeOf]

/-- ENC and DEC share their checks: SIZE and ALIAS; they need no valid bit (R111, R190). -/
theorem check_of_enc_or_dec (hi : i = .enc a b ∨ i = .dec a b) :
    check i s = if s.nMax < s.N then some .size else if a = b then some .aliasing else none := by
  rcases hi with rfl | rfl <;> simp [check, failsSize, failsAlias, failsKs, failsTable, failsPerm]

theorem abortsWith_aliasing_of_enc_or_dec (hi : i = .enc a a ∨ i = .dec a a) (h : s.N ≤ s.nMax) :
    AbortsWith i s .aliasing :=
  abortsWith_of_check (by simp [check_of_enc_or_dec hi, h])

/-- What ENC leaves, in the form `executeEnc` writes it. -/
abbrev afterEnc (a b : BufId) (s : State) : State :=
  validateNewP (storeBuf b (numbered (encrypted a s)) (storeKey s))

/-- What DEC leaves, in the form `executeDec` writes it. -/
abbrev afterDec (a b : BufId) (s : State) : State :=
  validateTables (storeBuf b (numbered (decrypted a s)) (storeQ (numbered (invert (keyPermutation s))) (storeKey s)))

theorem exec_enc (h : s.N ≤ s.nMax) (hab : a ≠ b) : exec (.enc a b) s = .next (finish (afterEnc a b s)) :=
  exec_of_pass (by simp [check_of_enc_or_dec (.inl rfl), h, hab]) rfl

theorem exec_dec (h : s.N ≤ s.nMax) (hab : a ≠ b) : exec (.dec a b) s = .next (finish (afterDec a b s)) :=
  exec_of_pass (by simp [check_of_enc_or_dec (.inr rfl), h, hab]) rfl

theorem command_enc (hidle : s.busy = false) (h : s.N ≤ s.nMax) (hab : a ≠ b) :
    command (.enc a b) s = .next (completed (.enc a b) (afterEnc a b s)) :=
  command_of_exec hidle (exec_enc (s := accept _ s) h hab)

theorem command_dec (hidle : s.busy = false) (h : s.N ≤ s.nMax) (hab : a ≠ b) :
    command (.dec a b) s = .next (completed (.dec a b) (afterDec a b s)) :=
  command_of_exec hidle (exec_dec (s := accept _ s) h hab)

/-! ### What they store, read back -/

@[simp] theorem length_encrypted (a : BufId) (s : State) : (encrypted a s).length = s.N := by
  simp [encrypted, keystream, two_mul]

@[simp] theorem length_decrypted (a : BufId) (s : State) : (decrypted a s).length = s.N := by
  simp [decrypted, keystream, two_mul]

theorem bufRange_afterEnc (a b : BufId) (s : State) : bufRange (afterEnc a b s) b s.N = encrypted a s := by
  rw [bufRange_setValid, bufRange_storeBuf_numbered _ b (length_encrypted a s)]

theorem bufRange_afterDec (a b : BufId) (s : State) : bufRange (afterDec a b s) b s.N = decrypted a s := by
  rw [bufRange_setValid, bufRange_storeBuf_numbered _ b (length_decrypted a s)]

theorem tableRange_storeQ_numbered (s : State) {l : List Nat} (h : ∀ v ∈ l, v < 2 ^ 32) :
    tableRange (storeQ (numbered l) s) .Q l.length = l := by
  refine List.ext_getElem (by simp) fun k hk hk' => ?_
  have hlt : l[k] < 2 ^ 32 := h _ (List.getElem_mem hk')
  simpa [tableRange, readTable, readQ_storeQ_numbered, hk'] using hlt

theorem tableRange_q_afterDec (h : s.N ≤ s.nMax) (a b : BufId) :
    tableRange (afterDec a b s) .Q s.N = invert (keyPermutation s) := by
  have hperm : (invert (keyPermutation s)).Perm (List.range s.N) := invert_perm_range keyPermutation_perm_range
  have hfit : ∀ v ∈ invert (keyPermutation s), v < 2 ^ 32 := fun v hv =>
    ((mem_iff_lt_of_perm_range hperm).mp hv).trans (N_le_word h)
  have hread := tableRange_storeQ_numbered (storeKey s) hfit
  rw [length_of_perm_range hperm] at hread
  simpa using hread

theorem readQ_afterDec_of_ge (a b : BufId) {i : Nat} (hi : s.N ≤ i) : readQ (afterDec a b s) i = readQ s i := by
  have hnone : (invert (keyPermutation s))[i]? = none := by simpa [keyPermutation] using hi
  simp [readQ_storeQ_numbered, hnone]

theorem readBuf_afterDec_of_ge (a b : BufId) {i : Nat} (hi : s.N ≤ i) :
    readBuf (afterDec a b s) b i = readBuf s b i := by
  rw [readBuf_setValid, readBuf_storeBuf_numbered_of_ge _ b (length_decrypted a s) hi]
  simp

theorem readBuf_afterEnc_of_ge (a b : BufId) {i : Nat} (hi : s.N ≤ i) :
    readBuf (afterEnc a b s) b i = readBuf s b i := by
  rw [readBuf_setValid, readBuf_storeBuf_numbered_of_ge _ b (length_encrypted a s) hi]
  simp

end commands

/-- Settles O20: ENC that fits ends in `afterEnc`: KS and P are those of `storeKey`, and BUF[dst] holds the encrypted
pixels. -/
theorem encEncryptsImage : Obligations.EncEncryptsImage := by
  refine fun s a b => ⟨toNat_encode_enc a b, fun h hab => ⟨_, exec_enc h hab, ?frame, ?ks, ?ksBeyond, ?p, ?pBeyond,
    ?dst, ?dstBeyond, ?others⟩, abortsWith_size nofun, abortsWith_aliasing_of_enc_or_dec (.inl rfl)⟩
  case frame => simp [finish, storeKeystream_eq, storeKs, storeP, storeBuf, setValid, setXs]
  case ks => simp [ksRange_storeKeystream]
  case ksBeyond => exact fun k hk => by simp [readKs_storeKeystream_of_ge s hk]
  case p => simp [tableRange_storeKey h, build_ksRange_storeKeystream]
  case pBeyond => exact fun i hi => by simp [readP_storeKey_of_ge hi]
  case dst =>
    rw [bufRange_finish, bufRange_afterEnc, encrypted]
    simp [tableRange_storeKey h, ksRange_storeKeystream_second]
  case dstBeyond => exact fun j hj => by rw [readBuf_finish, readBuf_afterEnc_of_ge a b hj]
  case others => exact fun c hcb => by simp [Buffers.get_set_other _ _ hcb]

/-- Settles O21: DEC that fits ends in `afterDec`: KS and P are those of `storeKey`, Q is the inverse of P, and BUF[dst]
holds the decrypted pixels. -/
theorem decDecryptsImage : Obligations.DecDecryptsImage := by
  refine fun s a b => ⟨toNat_encode_dec a b, fun h hab => ⟨_, exec_dec h hab, ?frame, ?ks, ?ksBeyond, ?p, ?pBeyond,
    ?q, ?qBeyond, ?dst, ?dstBeyond, ?others⟩, abortsWith_size nofun, abortsWith_aliasing_of_enc_or_dec (.inr rfl)⟩
  case frame => simp [finish, storeKeystream_eq, storeKs, storeP, storeQ, storeBuf, setValid, setXs]
  case ks => simp [ksRange_storeKeystream]
  case ksBeyond => exact fun k hk => by simp [readKs_storeKeystream_of_ge s hk]
  case p => simp [tableRange_storeKey h, build_ksRange_storeKeystream]
  case pBeyond => exact fun i hi => by simp [readP_storeKey_of_ge hi]
  case q => rw [tableRange_finish, tableRange_q_afterDec h]; simp [tableRange_storeKey h]
  case qBeyond => exact fun i hi => by rw [readQ_finish, readQ_afterDec_of_ge a b hi]
  case dst =>
    rw [bufRange_finish, bufRange_afterDec, decrypted, tableRange_finish, tableRange_q_afterDec h]
    simp [ksRange_storeKeystream_second]
  case dstBeyond => exact fun j hj => by rw [readBuf_finish, readBuf_afterDec_of_ge a b hj]
  case others => exact fun c hcb => by simp [Buffers.get_set_other _ _ hcb]

/-! ## GEN; PBUILD; SCAT; CFWD (R191) -/

section encDecomposition
variable {s : State} {a b c : BufId}

/-- GEN; PBUILD: the state in which both decompositions go on. -/
abbrev afterPbuild (s : State) : State := completed .pbuild (validateNewP (storeKey s))

theorem commands_gen_pbuild (hidle : s.busy = false) (h : s.N ≤ s.nMax) (rest : List Instr) :
    commands (.gen :: .pbuild :: rest) s = commands rest (afterPbuild s) := by
  have hpbuild : command .pbuild (completed .gen (storeKeystream s)) = .next (afterPbuild s) := by
    rw [command_pbuild rfl (by simpa using h) (by simp [storeKeystream])]
    simp only [finish_N, accept_N, storeKeystream_N, ksRange_finish, ksRange_accept, build_ksRange_storeKeystream]
    rfl
  rw [commands_cons (command_gen hidle h), commands_cons hpbuild]

theorem isBijection_afterPbuild (h : s.N ≤ s.nMax) : IsBijection (afterPbuild s) .P := by
  have hP := isBijection_storeKey h
  simpa [IsBijection] using hP

/-- GEN; PBUILD; SCAT: the scattered plaintext in the third buffer. -/
abbrev afterScat (a c : BufId) (s : State) : State :=
  completed (.scat a c .P) (storeBuf c (scatteredEntries (afterPbuild s) a .P) (afterPbuild s))

theorem bufRange_afterScat (h : s.N ≤ s.nMax) (a c : BufId) :
    bufRange (afterScat a c s) c s.N = scatter (bufRange s a s.N) (keyPermutation s) := by
  have hread := bufRange_storeBuf_scatteredEntries (a := a) (b := c) (isBijection_afterPbuild h)
  simpa [tableRange_storeKey h] using hread

/-- The four commands end with the pixels of ENC in the destination and the scattered plaintext in the third buffer. -/
theorem commands_enc_decomposition (hidle : s.busy = false) (h : s.N ≤ s.nMax) (hca : c ≠ a) (hcb : c ≠ b) :
    commands [.gen, .pbuild, .scat a c .P, .cfwd c b] s =
      .next (completed (.cfwd c b) (storeBuf b (numbered (encrypted a s)) (afterScat a c s))) := by
  have hscat : command (.scat a c .P) (afterPbuild s) = .next (afterScat a c s) :=
    command_scat rfl (by simpa using h) hca.symm (by simp [tableValid]) (isBijection_afterPbuild h)
  have hpixels : forward (bufRange (afterScat a c s) c s.N) (ksRange (afterScat a c s) s.N s.N) s.start =
      encrypted a s := by
    rw [bufRange_afterScat h, encrypted, ← ksRange_storeKeystream_second]
    simp
  have hcfwd := command_cfwd (s := afterScat a c s) rfl (by simpa using h) hcb (by simp [storeKeystream])
  rw [commands_gen_pbuild hidle h, commands_cons hscat, commands_cons hcfwd, commands, ← hpixels]
  simp

end encDecomposition

/-- Settles O39: GEN and PBUILD store what `storeKey` does, and CFWD of the scattered pixels stores the list of ENC. -/
theorem encEqualsItsDecomposition : Obligations.EncEqualsItsDecomposition := by
  refine fun s a b c hidle h hab hca hcb => ⟨_, _, commands_enc_decomposition hidle h hca hcb,
    command_enc hidle h hab, ?ks, ?xs, ?p, ?dst, ?ksValid, ?pValid, ?qValid, ?err, ?err', ?third, ?third'⟩
  case dst => simp [readBuf_storeBuf_numbered, readBuf_storeBuf_ne _ _ hcb.symm]
  case third =>
    rw [bufRange_finish, bufRange_accept, bufRange_storeBuf_ne _ _ _ hcb, bufRange_afterScat h]
    simp [tableRange_storeKey h]
  case third' => simp [readBuf_storeBuf_ne _ _ hcb]
  case ks | xs | p | ksValid | pValid | qValid | err | err' => simp

/-! ## Memories that agree below and beyond N -/

section memories
variable {s t : State} {b : BufId} {n : Nat}

theorem readBuf_eq_of_bufRange_eq (hrange : bufRange s b n = bufRange t b n)
    (hbeyond : ∀ j, n ≤ j → readBuf s b j = readBuf t b j) (j : Nat) : readBuf s b j = readBuf t b j := by
  rcases Nat.lt_or_ge j n with hj | hj
  · have hget := getElem?_bufRange_of_lt s b hj
    rw [hrange, getElem?_bufRange_of_lt t b hj] at hget
    exact (Option.some.inj hget).symm
  · exact hbeyond j hj

theorem readQ_eq_of_tableRange_eq (hrange : tableRange s .Q n = tableRange t .Q n)
    (hbeyond : ∀ j, n ≤ j → readQ s j = readQ t j) (j : Nat) : readQ s j = readQ t j := by
  rcases Nat.lt_or_ge j n with hj | hj
  · have hget := getElem?_tableRange s .Q n j
    rw [hrange, getElem?_tableRange, if_pos hj, if_pos hj] at hget
    exact (BitVec.eq_of_toNat_eq (Option.some.inj hget)).symm
  · exact hbeyond j hj

end memories

/-! ## GEN; PBUILD; PINV; CREV; SCAT by Q (R193) -/

section decDecomposition
variable {s : State} {a b c : BufId} {i : Nat}

/-- GEN; PBUILD; PINV: the inverse of the permutation in Q. -/
abbrev afterPinv (s : State) : State :=
  completed .pinv (validateQ (storeQ (inverseEntries (afterPbuild s)) (afterPbuild s)))

theorem tableRange_afterPinv (h : s.N ≤ s.nMax) :
    tableRange (afterPinv s) .Q s.N = invert (keyPermutation s) := by
  have hread := tableRange_storeQ_inverseEntries (s := afterPbuild s) (by simpa using h) (isBijection_afterPbuild h)
  simpa [tableRange_storeKey h] using hread

theorem isBijection_afterPinv (h : s.N ≤ s.nMax) : IsBijection (afterPinv s) .Q := by
  have hperm : (tableRange (afterPinv s) .Q s.N).Perm (List.range s.N) := by
    rw [tableRange_afterPinv h]
    exact invert_perm_range keyPermutation_perm_range
  simpa [IsBijection] using hperm

theorem readQ_afterPinv_of_ge (h : s.N ≤ s.nMax) (hi : s.N ≤ i) : readQ (afterPinv s) i = readQ s i := by
  have hread := readQ_storeQ_inverseEntries_of_ge (isBijection_afterPbuild h) (by simpa using hi)
  simpa using hread

/-- The pixels DEC unscatters: the reverse chain over BUF[src]. -/
abbrev unchained (a : BufId) (s : State) : List Pixel :=
  reverse (bufRange s a s.N) (ksRange (storeKeystream s) s.N s.N) s.start

theorem length_unchained (a : BufId) (s : State) : (unchained a s).length = s.N := by simp

theorem scatter_unchained (a : BufId) (s : State) :
    scatter (unchained a s) (invert (keyPermutation s)) = decrypted a s := by
  rw [unchained, ksRange_storeKeystream_second, decrypted]

/-- GEN; PBUILD; PINV; CREV: the reverse chain in the third buffer. -/
abbrev afterCrev (a c : BufId) (s : State) : State :=
  completed (.crev a c) (storeBuf c (numbered (unchained a s)) (afterPinv s))

theorem bufRange_afterCrev (a c : BufId) (s : State) : bufRange (afterCrev a c s) c s.N = unchained a s := by
  rw [bufRange_finish, bufRange_accept, bufRange_storeBuf_numbered _ c (length_unchained a s)]

theorem isBijection_afterCrev (h : s.N ≤ s.nMax) (a c : BufId) : IsBijection (afterCrev a c s) .Q := by
  have hQ := isBijection_afterPinv h
  simpa [IsBijection] using hQ

/-- GEN; PBUILD; PINV; CREV; SCAT: the reverse chain, scattered by Q, in the destination. -/
abbrev afterDecSequence (a b c : BufId) (s : State) : State :=
  completed (.scat c b .Q) (storeBuf b (scatteredEntries (afterCrev a c s) c .Q) (afterCrev a c s))

theorem commands_dec_decomposition (hidle : s.busy = false) (h : s.N ≤ s.nMax) (hca : c ≠ a) (hcb : c ≠ b) :
    commands [.gen, .pbuild, .pinv, .crev a c, .scat c b .Q] s = .next (afterDecSequence a b c s) := by
  have hpinv : command .pinv (afterPbuild s) = .next (afterPinv s) :=
    command_pinv rfl (by simpa using h) (by simp) (isBijection_afterPbuild h)
  have hcrev : command (.crev a c) (afterPinv s) = .next (afterCrev a c s) := by
    rw [command_crev rfl (by simpa using h) hca.symm (by simp [storeKeystream])]
    simp
  have hscat : command (.scat c b .Q) (afterCrev a c s) = .next (afterDecSequence a b c s) :=
    command_scat rfl (by simpa using h) hcb (by simp [tableValid]) (isBijection_afterCrev h a c)
  rw [commands_gen_pbuild hidle h, commands_cons hpinv, commands_cons hcrev, commands_cons hscat, commands]

/-- Both ways leave the inverse of the permutation in Q[0..N) and nothing else. -/
theorem readQ_afterDecSequence (h : s.N ≤ s.nMax) (a b c : BufId) (j : Nat) :
    readQ (afterDecSequence a b c s) j = readQ (afterDec a b s) j := by
  refine readQ_eq_of_tableRange_eq (n := s.N) ?below (fun i hi => ?beyond) j
  case below =>
    rw [tableRange_q_afterDec h, ← tableRange_afterPinv h]
    simp
  case beyond =>
    rw [readQ_afterDec_of_ge a b hi, ← readQ_afterPinv_of_ge h hi]
    simp

theorem bufRange_afterDecSequence (h : s.N ≤ s.nMax) (a b c : BufId) :
    bufRange (afterDecSequence a b c s) b s.N = decrypted a s := by
  have hread := bufRange_storeBuf_scatteredEntries (a := c) (b := b) (isBijection_afterCrev h a c)
  rw [← scatter_unchained, ← tableRange_afterPinv h, ← bufRange_afterCrev a c]
  simpa using hread

/-- Both ways leave the decrypted pixels in BUF[dst][0..N) and nothing else. -/
theorem readBuf_afterDecSequence (h : s.N ≤ s.nMax) (hcb : c ≠ b) (j : Nat) :
    readBuf (afterDecSequence a b c s) b j = readBuf (afterDec a b s) b j := by
  refine readBuf_eq_of_bufRange_eq (n := s.N) ?below (fun i hi => ?beyond) j
  case below => rw [bufRange_afterDecSequence h, bufRange_afterDec]
  case beyond =>
    have hscat := readBuf_storeBuf_scatteredEntries_of_ge (a := c) (b := b) (isBijection_afterCrev h a c)
      (by simpa using hi)
    simpa [readBuf_afterDec_of_ge a b hi, readBuf_storeBuf_ne _ _ hcb.symm] using hscat

end decDecomposition

/-- Settles O40: PINV stores the list `invert` gives, and SCAT by Q scatters by that list, as DEC does. -/
theorem decEqualsItsDecomposition : Obligations.DecEqualsItsDecomposition := by
  refine fun s a b c hidle h hab hca hcb => ⟨_, _, commands_dec_decomposition hidle h hca hcb,
    command_dec hidle h hab, ?ks, ?xs, ?p, readQ_afterDecSequence h a b c, readBuf_afterDecSequence h hcb,
    ?ksValid, ?pValid, ?qValid, ?err, ?err', ?third, ?third'⟩
  case third =>
    rw [bufRange_finish, bufRange_accept, bufRange_storeBuf_ne _ _ _ hcb, bufRange_afterCrev]
    simp
  case third' => simp [readBuf_storeBuf_ne _ _ hcb]
  case ks | xs | p | ksValid | pValid | qValid | err | err' => simp

/-! ## The round trip (R194) -/

/-- DEC of what ENC wrote, with the same key, START and size, undoes the chain and then the scatter. -/
theorem decrypted_of_bufRange_eq_encrypted {s t : State} {a b : BufId} (hseed : t.seed = s.seed)
    (hstart : t.start = s.start) (hN : t.N = s.N) (hb : bufRange t b t.N = encrypted a s) :
    decrypted b t = bufRange s a s.N := by
  have hks : keystream t = keystream s := by rw [keystream, keystream, hseed, hN]
  have hperm : keyPermutation t = keyPermutation s := by rw [keyPermutation, keyPermutation, hks, hN]
  have hlen : (scatter (bufRange s a s.N) (keyPermutation s)).length = s.N := by simp
  have hchain : reverse (encrypted a s) ((keystream s).drop s.N) s.start =
      scatter (bufRange s a s.N) (keyPermutation s) :=
    (chainRoundTrip _ _ _ (by simp [keystream, two_mul])).1
  rw [decrypted, hb, hks, hperm, hstart, hN, hchain,
    ← unscatter_eq_scatter_invert keyPermutation_perm_range hlen,
    unscatter_scatter keyPermutation_perm_range (length_bufRange _ _ _)]

/-- Settles O41: with the key, START and size kept, the pixels DEC writes are those that ENC read. -/
theorem decryptUndoesEncrypt : Obligations.DecryptUndoesEncrypt := by
  refine fun s a b c hidle h hab hbc => ⟨_, command_enc hidle h hab,
    fun t hidle' hseed hstart hwidth hheight hcap hb => ?_⟩
  have hN : t.N = s.N := by rw [State.N, State.N, hwidth, hheight]
  have hfits : t.N ≤ t.nMax := by rw [hN, State.nMax, hcap]; exact h
  refine ⟨_, command_dec hidle' hfits hbc, by simp, ?_⟩
  rw [bufRange_finish, bufRange_accept, bufRange_afterEnc, ← hN] at hb
  rw [bufRange_finish, bufRange_accept, ← hN, bufRange_afterDec, hN]
  exact decrypted_of_bufRange_eq_encrypted hseed hstart hN hb

end Sys2Proof.Machine
end

section
/-! Exceptions: the one code a command can abort with, and the interrupt output, the obligations O9 and O53
(spec/40_command_execution.md R111, spec/60_exceptions.md R205, R210). -/

namespace Sys2Proof.Machine

/-! ## The first failing check (R111, R205) -/

/-- The check of the model that raises the code; NONE and ILLEGAL are no check of a command that decoded. -/
def failsCheck (i : Instr) (s : State) : ErrCode → Bool
  | .clear | .illegal => false
  | .size => failsSize i s
  | .aliasing => failsAlias i
  | .noKs => failsKs i s
  | .noTable => failsTable i s
  | .notPerm => failsPerm i s

theorem codeNumber_injective : Function.Injective codeNumber := by
  intro c c' h
  cases c <;> cases c' <;> simp_all [codeNumber]

section checks
variable {i : Instr} {s : State} {c : ErrCode}

theorem checkFails_iff : CheckFails i s c ↔ failsCheck i s c = true := by
  cases c
  case clear | illegal => simp [CheckFails, failsCheck]
  case size => exact (failsSize_iff i s).symm
  case aliasing => exact (failsAlias_iff i s).symm
  case noKs => exact (failsKs_iff i s).symm
  case noTable => exact (failsTable_iff i s).symm
  case notPerm => rw [CheckFails, failsCheck, failsPerm_iff, ← holdsPerm_iff, Bool.not_eq_true]

theorem not_checkFails_of_check_eq_none (h : check i s = none) : ¬ CheckFails i s c := by
  obtain ⟨hsize, halias, hks, htable, hperm⟩ := (check_eq_none_iff i s).mp h
  rw [checkFails_iff]
  cases c <;> simp [failsCheck, *]

/-- `check` tries the checks in the order of their numbers. -/
theorem firstFailing_of_check (h : check i s = some c) :
    CheckFails i s c ∧ ∀ c', (codeNumber c').toNat < (codeNumber c).toNat → ¬ CheckFails i s c' := by
  simp only [checkFails_iff]
  obtain ⟨rfl, hfirst⟩ | ⟨rfl, hfirst⟩ | ⟨rfl, hfirst⟩ | ⟨rfl, hfirst⟩ | ⟨rfl, hfirst⟩ := check_eq_some_cases h
  all_goals
    refine ⟨by simp [failsCheck, hfirst], fun c' hlt => ?_⟩
    cases c' <;> simp_all [failsCheck, codeNumber]

/-- Some check fails, so `check` answers a code, and two first failing checks have one number. -/
theorem check_eq_some_iff : check i s = some c ↔
    CheckFails i s c ∧ ∀ c', (codeNumber c').toNat < (codeNumber c).toNat → ¬ CheckFails i s c' := by
  refine ⟨firstFailing_of_check, fun ⟨hfails, hfirst⟩ => ?_⟩
  cases hc : check i s with
  | none => exact absurd hfails (not_checkFails_of_check_eq_none hc)
  | some d =>
    obtain ⟨hdfails, hdfirst⟩ := firstFailing_of_check hc
    have hle : (codeNumber c).toNat ≤ (codeNumber d).toNat := Nat.not_lt.mp fun hlt => hfirst d hlt hdfails
    have hge : (codeNumber d).toNat ≤ (codeNumber c).toNat := Nat.not_lt.mp fun hlt => hdfirst c hlt hfails
    rw [codeNumber_injective (BitVec.eq_of_toNat_eq (Nat.le_antisymm hge hle))]

/-- An abort raises ERR, which `execute` never does, so the command was stopped by `check`, with the recorded code. -/
theorem abortsWith_iff_check (hs : s.err = false) : AbortsWith i s c ↔ check i s = some c := by
  refine ⟨fun h => ?_, abortsWith_of_check⟩
  obtain ⟨d, hd, heq⟩ | ⟨-, u, hu, heq⟩ := exec_cases h
  · have hcode : c = d := congrArg State.code heq
    rw [hd, hcode]
  · have huerr : u.err = s.err := by rw [executeOf_frame hu]
    have herr : true = u.err := congrArg State.err heq
    simp [huerr, hs] at herr
end checks

/-! ## ILLEGAL (R97, R205) -/

/-- An illegal word is accepted like any other, and its completion aborts whatever the state. -/
theorem illegal_write_aborts {s : State} {w : Word} (hidle : s.busy = false) (h : ∀ i, decode w ≠ .ok i) :
    andThen (hostWrite 0x00C#12 w s) blockStep = .next (finish (abort .illegal (accept w s))) := by
  rw [hostWrite_cmd_idle w hidle, andThen, blockStep_of_busy (accept_busy s w), completion_of_illegal h]

/-- SCAT uses bits 12:0 only, so bit 13 makes its word illegal. -/
theorem not_decode_of_scat_opcode_bit13 {w : Word} (hop : w.toNat % 256 = 0x10) (hbit : w.getLsbD 13 = true)
    (i : Instr) : decode w ≠ .ok i := by
  intro h
  have hopcode : opField w = opcodeOf (.scat .b0 .b0 .P) := BitVec.eq_of_toNat_eq ((toNat_opField w).trans hop)
  rw [decode_of_opcode hopcode] at h
  obtain ⟨hzero, -⟩ := readFields_ok h
  have hclear : (w >>> 13).getLsbD 0 = false := by rw [show w >>> 13 = 0#32 from hzero]; rfl
  rw [BitVec.getLsbD_ushiftRight] at hclear
  exact Bool.false_ne_true (hclear.symm.trans hbit)

/-- Settles O9: a command aborts with what `check` answers, the code of the first failing check. -/
theorem firstFailingCheckGivesCode : Obligations.FirstFailingCheckGivesCode :=
  ⟨fun _ _ _ hs => (abortsWith_iff_check hs).trans check_eq_some_iff, fun _ _ => illegal_write_aborts,
    fun _ => not_decode_of_scat_opcode_bit13, rfl⟩

/-! ## The interrupt output (R210) -/

section irq
variable (s : State)

@[simp] theorem irq_withSchedule (turns : List Turn) : irq (withSchedule turns s) = irq s := rfl
@[simp] theorem irq_dropAccess : irq (dropAccess s) = irq s := rfl
@[simp] theorem irq_answer (v : Word) : irq (answer v s) = irq s := rfl
@[simp] theorem irq_accept (w : Word) : irq (accept w s) = false := by simp [irq]

@[simp] theorem irq_advance : irq (advance s) = irq s := by rw [advance_eq]; rfl

@[simp] theorem irq_storeWindow (v : Word) : irq (storeWindow v s) = irq s := by
  unfold storeWindow
  split
  · rfl
  · rfl
  · rfl
  · split <;> rfl

@[simp] theorem irq_readWdata : irq (readWdata s) = irq s := by
  unfold readWdata
  split
  · simp
  · split
    · split <;> simp
    · simp

@[simp] theorem irq_writeWdata (v : Word) : irq (writeWdata v s) = irq s := by
  unfold writeWdata
  split
  · simp
  · split <;> simp

@[simp] theorem irq_readReg (r : Reg) : irq (readReg s r) = irq s := by
  cases r
  case wdata => exact irq_readWdata s
  all_goals rfl

theorem irq_writeReg_ctrl (v : Word) : irq (writeReg v s .ctrl) = (v.getLsbD 0 && s.done) := rfl

theorem irq_writeReg_status (v : Word) : irq (writeReg v s .status) = (s.ie && (s.done && !v.getLsbD 1)) := rfl
end irq

section events
variable {s t : State}

/-- Dropped or taken, a write that waits for BUSY = 0 does not raise IRQ when its effect does not. -/
theorem irq_of_irq_whenIdle (h : irq (whenIdle s t) = true) (ht : irq t = true → irq s = true) : irq s = true := by
  unfold whenIdle at h
  split at h
  · exact h
  · exact ht h

/-- No register write but that of CTRL raises IRQ. -/
theorem irq_of_irq_writeReg {v : Word} {r : Reg} (hr : r ≠ .ctrl) (h : irq (writeReg v s r) = true) :
    irq s = true := by
  cases r
  case ctrl => exact absurd rfl hr
  case status =>
    simp only [irq_writeReg_status, Bool.and_eq_true] at h
    obtain ⟨hie, hdone, -⟩ := h
    simp [irq, hie, hdone]
  case cmd => exact irq_of_irq_whenIdle h (by simp)
  case wdata => exact irq_writeWdata s v ▸ h
  case errcode | npix | cap | xs => exact h
  case seed | start | width | height | wsel | widx => exact irq_of_irq_whenIdle h id

theorem eq_writeReg_of_hostWrite {r : Reg} {v : Word} (h : hostWrite (offsetOf r) v s = .next t) :
    t = writeReg v s r :=
  (Host.Outcome.next.inj ((hostWrite_eq r v s).symm.trans h)).symm

/-- The host raises IRQ only by a CTRL write that finds DONE = 1. -/
theorem ctrl_write_of_irq_hostAccess {op : HostOp} (hs : irq s = false) (h : irq (hostAccess op s) = true) :
    ∃ v, op = .write .word 0x000#12 v ∧ s.done = true := by
  obtain ⟨-, ho | ho⟩ | ⟨r, -, ho⟩ | ⟨r, v, rfl, ho⟩ := hostAccess_cases op s <;> rw [ho] at h
  case inr.inr =>
    by_cases hr : r = .ctrl
    · subst hr
      rw [irq_writeReg_ctrl, Bool.and_eq_true] at h
      exact ⟨v, rfl, h.2⟩
    · exact absurd (irq_of_irq_writeReg hr h) (by simp [hs])
  all_goals simp [hs] at h

/-- Every completion step of a command, aborted or executed, ends with `finish`; none writes IE. -/
theorem exec_finishes {i : Instr} (h : exec i s = .next t) : t.busy = false ∧ t.done = true ∧ t.ie = s.ie := by
  obtain ⟨c, -, rfl⟩ | ⟨-, u, hu, rfl⟩ := exec_cases h
  · exact ⟨rfl, rfl, rfl⟩
  · exact ⟨rfl, rfl, by rw [finish_ie, executeOf_frame hu]⟩

/-- After a completion IRQ is IE. -/
theorem irq_of_blockStep (hbusy : s.busy = true) (h : blockStep s = .next t) : irq t = s.ie := by
  rw [blockStep_of_busy hbusy] at h
  have hfin : t.done = true ∧ t.ie = s.ie := by
    unfold completion at h
    split at h
    · exact (exec_finishes h).2
    · obtain rfl := Host.Outcome.next.inj h
      exact ⟨rfl, rfl⟩
  simp [irq, hfin]

/-- What can raise IRQ in one step: a completion with IE = 1, or a CTRL write with DONE = 1. -/
theorem irq_raised_cases (h : step s = .next t) (hs : irq s = false) (ht : irq t = true) :
    (s.busy = true ∧ t.busy = false ∧ s.ie = true ∧ t.done = true) ∨
    ∃ v rest, s.schedule = .host (.write .word 0x000#12 v) :: rest ∧ s.done = true := by
  obtain ⟨-, -, rfl⟩ | ⟨i, ⟨hbusy, -, -⟩, he⟩ | ⟨hbusy, -, -, rfl⟩ | ⟨op, hsched, rfl⟩ | ⟨-, rfl⟩ := step_cases h
  · simp [hs] at ht
  · obtain ⟨htbusy, hdone, hie⟩ := exec_finishes he
    exact .inl ⟨hbusy, htbusy, by simpa [irq, hdone, hie] using ht, hdone⟩
  · exact .inl ⟨hbusy, rfl, by simpa [irq] using ht, rfl⟩
  · obtain ⟨v, rfl, hdone⟩ := ctrl_write_of_irq_hostAccess ((irq_withSchedule s _).trans hs) ht
    exact .inr ⟨v, _, hsched, hdone⟩
  · simp at ht
end events

/-- Settles O53: each event fixes IE or DONE, and `irq_raised_cases` lists what can raise the output. -/
theorem irqFollowsDoneAndIe : Obligations.IrqFollowsDoneAndIe := by
  refine ⟨fun _ => rfl, fun s t => irq_of_blockStep, fun s t v hv h => ?setIe, fun s t v hv h => ?clearIe,
    fun s t v hv h => ?clearDone, fun s t w hidle h => ?acceptance, fun s t h => ?reset, fun s t => irq_raised_cases⟩
  case setIe => rw [eq_writeReg_of_hostWrite (r := .ctrl) h, irq_writeReg_ctrl, hv, Bool.true_and]
  case clearIe => rw [eq_writeReg_of_hostWrite (r := .ctrl) h, irq_writeReg_ctrl, hv, Bool.false_and]
  case clearDone => rw [eq_writeReg_of_hostWrite (r := .status) h, irq_writeReg_status, hv]; simp
  case acceptance =>
    obtain rfl := Host.Outcome.next.inj ((hostWrite_cmd_idle w hidle).symm.trans h)
    exact irq_accept s w
  case reset =>
    obtain rfl := Host.Outcome.next.inj ((resetStep_eq s).symm.trans h)
    exact resetBlock_irq s

end Sys2Proof.Machine
end

section
/-! The decoder inverts the encoder, and sample words decode as named: the obligations O1 and O2 (spec/30_encoding.md
R90 to R100, spec/95_test_vectors.md section 2.1). -/

namespace Sys2Proof

theorem decode_ne_ok_of_error {w : Word} {e : DecodeReject} (h : decode w = .error e) (i : Instr) :
    decode w ≠ .ok i := by
  rw [h]
  nofun

/-- Settles O1: the decoder computes each listed word's answer; two of the illegal words have no opcode of R95, the
others a bit set that their command leaves unused. -/
theorem sampleWordsDecode : Obligations.SampleWordsDecode := by
  have unassigned {w : Word} := decode_ne_ok_of_error (w := w) (e := .unassignedOp)
  have unused {w : Word} := decode_ne_ok_of_error (w := w) (e := .nonzeroUnused)
  refine ⟨by decide, ?illegal⟩
  case illegal =>
    simp only [List.forall_mem_cons]
    exact ⟨unassigned rfl, unassigned rfl, unused rfl, unused rfl, unused rfl, unused rfl, unused rfl, nofun⟩

/-- Settles O2: the fields of an encoding are the command's own, and a legal word has no bit outside its fields. -/
theorem decodeInvertsEncode : Obligations.DecodeInvertsEncode :=
  ⟨fun i _ => Machine.decode_encode i, fun _ _ => eq_encode_of_decode⟩

end Sys2Proof
end

section
/-! The host's accesses to the registers: what is dropped, what a read returns, what a write stores, also while a
command is outstanding, and the aperture: the obligations O43, O44, O47, O51 and O52 (spec/10_state.md R21 to R41,
spec/20_memory.md R60 to R75). -/

namespace Sys2Proof.Machine

/-! ## Accesses that reach no register (R41, R61, R63) -/

theorem regAt_eq_none {off : Offset} (h : 0x038 ≤ off.toNat) : regAt off = none := by
  refine Option.eq_none_iff_forall_ne_some.mpr fun r hr => ?_
  obtain rfl := regAt_eq_some hr
  have hmapped : (offsetOf r).toNat < 0x038 := by cases r <;> decide
  omega

theorem reached_eq_none {op : HostOp} (h : op.size ≠ .word ∨ op.off.toNat % 4 ≠ 0 ∨ 0x038 ≤ op.off.toNat) :
    reached op = none := by
  unfold reached
  split
  · next hwf =>
    simp only [HostOp.wf, Bool.and_eq_true, beq_iff_eq] at hwf
    obtain ⟨hsize, haligned⟩ := hwf
    exact regAt_eq_none (by tauto)
  · rfl

section drops
variable {s : State} {size : AccessSize} {off : Offset}

theorem hostStep_read_of_unreached (h : reached (.read size off) = none) :
    hostStep (.read size off) s = .next (answer 0#32 (dropAccess s)) :=
  (hostStep_eq _ s).trans (congrArg Host.Outcome.next (hostAccess_of_unreached s h))

theorem hostStep_write_of_unreached {v : Word} (h : reached (.write size off v) = none) :
    hostStep (.write size off v) s = .next (dropAccess s) :=
  (hostStep_eq _ s).trans (congrArg Host.Outcome.next (hostAccess_of_unreached s h))
end drops

theorem whenIdle_of_idle {s : State} (t : State) (h : s.busy = false) : whenIdle s t = t := if_neg (by simp [h])

/-- Settles O43: an access that is narrow, misaligned or beyond the map reaches no register, and a write to a read-only
register is the drop itself; CTRL, STATUS and WSEL have writes of their own, which do not raise ACCERR. -/
theorem droppedAccesses : Obligations.DroppedAccesses := by
  refine fun s => ⟨fun size off h => ⟨?read, fun v => ?write⟩, ?readOnly, ?taken⟩
  case read => exact hostStep_read_of_unreached (reached_eq_none h)
  case write => exact hostStep_write_of_unreached (reached_eq_none h)
  case readOnly =>
    simp only [List.forall_mem_cons]
    exact ⟨(hostWrite_eq .errcode · s), (hostWrite_eq .npix · s), (hostWrite_eq .cap · s), (hostWrite_eq .xs · s),
      nofun⟩
  case taken =>
    simp only [List.forall_mem_cons]
    refine ⟨fun v t _ h hs => ?ctrl, fun v t _ h hs => ?status, fun v t hidle h hs => ?wsel, nofun⟩
    case ctrl => rw [eq_writeReg_of_hostWrite (r := .ctrl) h]; exact hs
    case status => rw [eq_writeReg_of_hostWrite (r := .status) h]; simp [writeReg, clearStatus, hs]
    case wsel => rw [eq_writeReg_of_hostWrite (r := .wsel) h]; simp [writeReg, whenIdle_of_idle _ hidle, hs]

/-! ## The words a register read returns (R22 to R38) -/

@[simp] theorem toNat_flagBit (b : Bool) : (flagBit b).toNat = b.toNat := by cases b <;> rfl

section words
variable (s : State)

theorem toNat_ctrlWord : (ctrlWord s).toNat = s.ie.toNat := by
  rw [ctrlWord, toNat_append_eq_add, toNat_flagBit]
  simp

theorem toNat_statusWord :
    (statusWord s).toNat = s.busy.toNat + 2 * s.done.toNat + 4 * s.err.toNat + 8 * s.accErr.toNat +
      16 * s.ksValid.toNat + 32 * s.pValid.toNat + 64 * s.qValid.toNat := by
  simp only [statusWord, toNat_append_eq_add, toNat_flagBit, BitVec.toNat_ofNat]
  omega

theorem toNat_errcodeWord : (errcodeWord s).toNat = (codeNumber s.code).toNat := by
  rw [errcodeWord, toNat_append_eq_add]
  simp

/-- NPIX saturates at the largest word. -/
theorem toNat_npixWord : (npixWord s).toNat = min (s.width.toNat * s.height.toNat) (2 ^ 32 - 1) := by
  rw [npixWord, BitVec.toNat_ofNat, State.N]
  omega

theorem toNat_wselWord : (wselWord s).toNat = s.win.toNat + 256 * s.ainc.toNat := by
  simp only [wselWord, toNat_append_eq_add, toNat_flagBit, BitVec.toNat_ofNat]
  omega

/-- A read of any register but WDATA does nothing but return the register. -/
theorem hostRead_eq_answer {r : Reg} (hr : r ≠ .wdata) :
    hostRead (offsetOf r) s = .next (answer (regValue s r) s) := by
  rw [hostRead_eq]
  cases r
  case wdata => exact absurd rfl hr
  all_goals rfl

/-- A read whose word has the number `n` returns `n` and changes nothing else. -/
theorem exists_hostRead_toNat {r : Reg} {n : Nat} (hr : r ≠ .wdata) (hn : (regValue s r).toNat = n) :
    ∃ t, hostRead (offsetOf r) s = .next t ∧ t = { s with rdata := t.rdata } ∧ t.rdata.toNat = n :=
  ⟨_, hostRead_eq_answer s hr, rfl, hn⟩
end words

/-- Settles O44: a read answers `regValue`, whose computed words have the numbers their layouts give. -/
theorem registerReadValues : Obligations.RegisterReadValues := by
  intro s
  have stored {r : Reg} (hr : r ≠ .wdata) := hostRead_eq_answer s hr
  have computed {r : Reg} {n : Nat} (hr : r ≠ .wdata) := exists_hostRead_toNat s (n := n) hr
  simp only [List.forall_mem_cons]
  exact ⟨⟨stored (r := .cmd) nofun, stored (r := .seed) nofun, stored (r := .start) nofun, stored (r := .width) nofun,
      stored (r := .height) nofun, stored (r := .cap) nofun, stored (r := .xs) nofun, stored (r := .widx) nofun, nofun⟩,
    computed (r := .ctrl) nofun (toNat_ctrlWord s), computed (r := .status) nofun (toNat_statusWord s),
    computed (r := .errcode) nofun (toNat_errcodeWord s), computed (r := .npix) nofun (toNat_npixWord s),
    computed (r := .wsel) nofun (toNat_wselWord s), nofun⟩

/-! ## Writes to the configuration registers (R28 to R30, R38, R39) -/

/-- While idle a write that waits for BUSY = 0 has its effect. -/
theorem hostWrite_of_idle {s t : State} {r : Reg} {v : Word} (hidle : s.busy = false)
    (hr : writeReg v s r = whenIdle s t) : hostWrite (offsetOf r) v s = .next t := by
  rw [hostWrite_eq, hr, whenIdle_of_idle t hidle]

/-- Settles O47: each of the six writes waits for BUSY = 0, and its effect is the update that the statement writes
out. -/
theorem configurationWrites : Obligations.ConfigurationWrites := by
  refine fun s v hidle => ⟨hostWrite_of_idle (r := .seed) hidle rfl, hostWrite_of_idle (r := .start) hidle rfl,
    hostWrite_of_idle (r := .width) hidle rfl, hostWrite_of_idle (r := .height) hidle rfl,
    ⟨_, hostWrite_of_idle (r := .wsel) hidle rfl, rfl, ?win⟩, hostWrite_of_idle (r := .widx) hidle rfl⟩
  case win => simp

/-! ## Accesses while a command is outstanding (R68, R115) -/

section busy
variable {s : State} (hbusy : s.busy = true)
include hbusy

/-- While busy only CTRL and STATUS take a write. -/
theorem writeReg_of_busy {r : Reg} (v : Word) (hctrl : r ≠ .ctrl) (hstatus : r ≠ .status) :
    writeReg v s r = dropAccess s := by
  cases r
  case ctrl => exact absurd rfl hctrl
  case status => exact absurd rfl hstatus
  case wdata => exact writeWdata_of_busy v hbusy
  case errcode | npix | cap | xs => rfl
  case cmd | seed | start | width | height | wsel | widx => exact whenIdle_of_busy _ hbusy

theorem hostWrite_of_busy {r : Reg} (v : Word) (hctrl : r ≠ .ctrl) (hstatus : r ≠ .status) :
    hostWrite (offsetOf r) v s = .next (dropAccess s) := by
  rw [hostWrite_eq, writeReg_of_busy hbusy v hctrl hstatus]

/-- Nothing that a command reads changes before its completion. -/
theorem hostAccess_frame_of_busy (op : HostOp) :
    ∃ ie done err accErr rdata,
      hostAccess op s = { s with ie := ie, done := done, err := err, accErr := accErr, rdata := rdata } := by
  obtain ⟨-, h | h⟩ | ⟨r, -, h⟩ | ⟨r, v, -, h⟩ := hostAccess_cases op s <;> rw [h]
  · exact ⟨_, _, _, _, _, rfl⟩
  · exact ⟨_, _, _, _, _, rfl⟩
  · by_cases hr : r = .wdata
    · subst hr
      exact ⟨_, _, _, _, _, readWdata_of_busy hbusy⟩
    · have hread := (hostRead_eq r s).symm.trans (hostRead_eq_answer s hr)
      exact ⟨_, _, _, _, _, Host.Outcome.next.inj hread⟩
  · by_cases hctrl : r = .ctrl
    · subst hctrl; exact ⟨_, _, _, _, _, rfl⟩
    · by_cases hstatus : r = .status
      · subst hstatus; exact ⟨_, _, _, _, _, rfl⟩
      · exact ⟨_, _, _, _, _, writeReg_of_busy hbusy v hctrl hstatus⟩
end busy

/-- Settles O51: while busy every write but of CTRL and STATUS, and a WDATA read, is `dropAccess`. -/
theorem busyAccesses : Obligations.BusyAccesses := by
  refine fun s hbusy => ⟨?dropped, ?wdata, fun v => ⟨_, hostWrite_eq .ctrl v s, rfl, rfl⟩, fun op t h => ?frame⟩
  case dropped =>
    have dropped {r : Reg} (hctrl : r ≠ .ctrl) (hstatus : r ≠ .status) (v : Word) :=
      hostWrite_of_busy hbusy v hctrl hstatus
    simp only [List.forall_mem_cons]
    exact ⟨dropped (r := .errcode) nofun nofun, dropped (r := .cmd) nofun nofun, dropped (r := .seed) nofun nofun,
      dropped (r := .start) nofun nofun, dropped (r := .width) nofun nofun, dropped (r := .height) nofun nofun,
      dropped (r := .npix) nofun nofun, dropped (r := .cap) nofun nofun, dropped (r := .xs) nofun nofun,
      dropped (r := .wsel) nofun nofun, dropped (r := .widx) nofun nofun, dropped (r := .wdata) nofun nofun, nofun⟩
  case wdata => rw [hostRead_wdata, readWdata_of_busy hbusy]
  case frame =>
    obtain ⟨ie, done, err, accErr, rdata, hframe⟩ := hostAccess_frame_of_busy hbusy op
    obtain rfl := Host.Outcome.next.inj ((hostStep_eq op s).symm.trans h)
    rw [hframe]

/-! ## The aperture (R11, R60, R75) -/

theorem offsetAt_base_add (off : Offset) : offsetAt (Config.base + off.toNat) = some off := by
  have hoff : off.toNat < 4096 := off.isLt
  rw [offsetAt, if_pos ⟨Nat.le_add_right _ _, Nat.add_lt_add_left hoff _⟩, Nat.add_sub_cancel_left, BitVec.ofNat_toNat,
    BitVec.setWidth_eq]

theorem offsetAt_eq_none {addr : Nat} (h : addr < Config.base ∨ Config.base + 4096 ≤ addr) : offsetAt addr = none := by
  rw [offsetAt, if_neg (by omega)]

/-- Settles O52: BASE is a page number times 4096, and `offsetAt` subtracts it within its page alone. -/
theorem apertureAtBase : Obligations.ApertureAtBase :=
  ⟨Nat.mul_mod_right 4096 Config.basePage, offsetAt_base_add, fun _ => offsetAt_eq_none⟩

end Sys2Proof.Machine
end

section
/-! One step of the block, what every command leaves alone, and the one fault: the obligations O4, O6, O10, O23 and O42
(spec/40_command_execution.md R110 to R113, spec/30_encoding.md R97, spec/93_implementation_defined.md F6). -/

namespace Sys2Proof.Machine

/-! ## The turns of a step (R77, R112, R230) -/

section turns
variable {s : State} {rest : List Turn}

theorem step_of_nil (h : s.schedule = []) : step s = blockTurn s := by simp only [step, takeTurn, h]

theorem step_of_host {op : HostOp} (h : s.schedule = .host op :: rest) :
    step s = .next (hostAccess op (withSchedule rest s)) := by simp only [step, takeTurn, h]

theorem step_of_block (h : s.schedule = .block :: rest) : step s = blockTurn (withSchedule rest s) := by
  simp only [step, takeTurn, h]

theorem step_of_reset (h : s.schedule = .reset :: rest) : step s = .next (resetBlock (withSchedule rest s)) := by
  simp only [step, takeTurn, h]

theorem blockTurn_of_decode {i : Instr} (hbusy : s.busy = true) (h : decode s.cmd = .ok i) :
    blockTurn s = exec i s := by
  simp only [blockTurn, hbusy, if_true, completion, h]
end turns

/-- Settles O4: with nothing or the block's turn scheduled the step is the completion, which runs what CMD decodes
to. -/
theorem stepRunsDecodedCommand : Obligations.StepRunsDecodedCommand :=
  fun _ _ hbusy h => ⟨fun hs => (step_of_nil hs).trans (blockTurn_of_decode hbusy h),
    fun rest hs => (step_of_block hs).trans (blockTurn_of_decode (s := withSchedule rest _) hbusy h)⟩

/-- Settles O6: acceptance and the abort of the completion are the updates that the statement writes out. -/
theorem illegalWordAborts : Obligations.IllegalWordAborts := fun _ _ => illegal_write_aborts

/-! ## What no command writes (R117) -/

/-- Settles O10: an abort records ERR and CODE alone, `execute` leaves every register of the host, and `finish` ends
both. -/
theorem commandsKeepHostRegisters : Obligations.CommandsKeepHostRegisters := by
  intro i s t h
  obtain ⟨c, -, rfl⟩ | ⟨-, u, hu, rfl⟩ := exec_cases h
  case inl => rfl
  case inr =>
    have hframe := executeOf_frame hu
    have herr : u.err = s.err := by rw [hframe]
    have hcode : u.code = s.code := by rw [hframe]
    rw [finish_err, finish_code, herr, hcode]
    exact congrArg finish hframe

/-! ## The one fault (R49, R151, R161) -/

/-- The table whose words `i` uses as indices into a memory. -/
def Indexes (i : Instr) (tb : Table) : Prop :=
  (i = .pinv ∧ tb = .P) ∨ ∃ a b, i = .scat a b tb ∨ i = .gath a b tb

section fault
variable {i : Instr} {s : State}

theorem check_eq_none_iff_forall : check i s = none ↔ ∀ c, ¬ CheckFails i s c := by
  refine ⟨fun h _ => not_checkFails_of_check_eq_none h, fun h => ?_⟩
  cases hc : check i s with
  | none => rfl
  | some c => exact absurd (firstFailing_of_check hc).1 (h c)

/-- The state in which `execute` of each command ends, where it does not stop. -/
def executed (i : Instr) (s : State) : State :=
  match i with
  | .nop => s
  | .gen => storeKeystream s
  | .pbuild => validateNewP (storeP (build s.N (ksRange s 0 s.N)) s)
  | .pinv => validateQ (storeQ (inverseEntries s) s)
  | .pchk => validateP s
  | .scat a b tb => storeBuf b (scatteredEntries s a tb) s
  | .gath a b tb => storeBuf b (gatheredEntries s a tb) s
  | .cfwd a b => storeBuf b (numbered (forward (bufRange s a s.N) (ksRange s s.N s.N) s.start)) s
  | .crev a b => storeBuf b (numbered (reverse (bufRange s a s.N) (ksRange s s.N s.N) s.start)) s
  | .enc a b => afterEnc a b s
  | .dec a b => afterDec a b s

/-- A command uses the words of at most one table as indices; it goes on where they all are below N_MAX, or it uses
none. -/
theorem executeOf_cases (i : Instr) (s : State) :
    (∃ tb, Indexes i tb ∧ executeOf i s = whenInCapacity (tableRange s tb s.N) (executed i s) s) ∨
    ((∀ tb, ¬ Indexes i tb) ∧ executeOf i s = .next (executed i s)) := by
  cases i
  case pinv => exact .inl ⟨.P, .inl ⟨rfl, rfl⟩, rfl⟩
  case scat a b tb => exact .inl ⟨tb, .inr ⟨a, b, .inl rfl⟩, rfl⟩
  case gath a b tb => exact .inl ⟨tb, .inr ⟨a, b, .inr rfl⟩, rfl⟩
  all_goals exact .inr ⟨by simp [Indexes], rfl⟩

theorem eq_executed_of_executeOf {u : State} (hu : executeOf i s = .next u) : u = executed i s := by
  obtain ⟨tb, -, h⟩ | ⟨-, h⟩ := executeOf_cases i s <;> rw [h] at hu
  · exact (whenInCapacity_cases hu).2
  · exact (Host.Outcome.next.inj hu).symm

theorem Indexes.unique {tb tb' : Table} (h : Indexes i tb) (h' : Indexes i tb') : tb = tb' := by
  obtain ⟨rfl, rfl⟩ | ⟨a, b, rfl | rfl⟩ := h <;> simpa [Indexes, eq_comm] using h'

theorem inCapacity_eq_false_iff (s : State) (tb : Table) :
    inCapacity s (tableRange s tb s.N) = false ↔ ∃ k < s.N, s.nMax ≤ (readTable s tb k).toNat := by
  simp [← Bool.not_eq_true, inCapacity_iff, tableRange]

theorem executeOf_ne_refused (r : Refusal) : executeOf i s ≠ .refused r := by
  obtain ⟨tb, -, h⟩ | ⟨-, h⟩ := executeOf_cases i s <;> rw [h]
  · unfold whenInCapacity; split <;> nofun
  · nofun

theorem executeOf_eq_fault_iff :
    executeOf i s = .fault .noSuchElement ↔ ∃ tb, Indexes i tb ∧ ∃ k < s.N, s.nMax ≤ (readTable s tb k).toNat := by
  simp only [← inCapacity_eq_false_iff]
  obtain ⟨tb, htb, h⟩ | ⟨hnone, h⟩ := executeOf_cases i s <;> rw [h]
  · have hfault : whenInCapacity (tableRange s tb s.N) (executed i s) s = .fault .noSuchElement ↔
        inCapacity s (tableRange s tb s.N) = false := by
      unfold whenInCapacity; split <;> simp_all
    rw [hfault]
    exact ⟨fun hc => ⟨tb, htb, hc⟩, fun ⟨tb', htb', hc⟩ => htb.unique htb' ▸ hc⟩
  · simp [hnone]

/-- An abort goes on, so only `execute` can stop a command. -/
theorem exec_eq_fault_iff {f : Fault} : exec i s = .fault f ↔ check i s = none ∧ executeOf i s = .fault f := by
  rw [exec_eq, runCommand]
  cases check i s with
  | some c => simp
  | none => cases executeOf i s <;> simp

theorem exec_ne_refused (r : Refusal) : exec i s ≠ .refused r := by
  have hexecute := executeOf_ne_refused (i := i) (s := s) r
  rw [exec_eq, runCommand]
  cases check i s with
  | some c => nofun
  | none => cases he : executeOf i s <;> simp_all
end fault

/-- Settles O23: the words that PINV, SCAT and GATH use as indices are tested against N_MAX, and nothing else stops a
command. -/
theorem faultOnlyOutsideTable : Obligations.FaultOnlyOutsideTable := by
  refine fun i s => ⟨exec_ne_refused, ?_⟩
  rw [exec_eq_fault_iff, check_eq_none_iff_forall, executeOf_eq_fault_iff]
  rfl

/-! ## A SEED write and GEN (R240) -/

/-- The state after a SEED write to an idle block (R28). -/
abbrev withSeed (v : Word) (s : State) : State := invalidateKs { s with seed := v }

theorem hostWrite_seed_idle {s : State} (v : Word) (hidle : s.busy = false) :
    hostWrite 0x010#12 v s = .next (withSeed v s) := hostWrite_of_idle (r := .seed) hidle rfl

/-- Settles O42: the SEED write clears KS_VALID alone of the valid bits, and GEN stores into KS and XS alone. -/
theorem stalePermutationStaysValid : Obligations.StalePermutationStaysValid := by
  intro s v hidle h hp
  have hrun : andThen (hostWrite 0x010#12 v s) (command .gen) =
      .next (completed .gen (storeKeystream (withSeed v s))) := by
    rw [hostWrite_seed_idle v hidle, andThen]
    exact command_gen (s := withSeed v s) hidle h
  have hN : (withSeed v s).N = s.N := rfl
  have hks := ksRange_storeKeystream (withSeed v s)
  rw [hN] at hks
  exact ⟨_, hrun, rfl, rfl, hks, hp, rfl, readP_storeKeystream (withSeed v s), readQ_storeKeystream (withSeed v s)⟩

end Sys2Proof.Machine
end

section
/-! The generator's update as a bijection, the draw that the builder never reads, and what reaches what in the chains:
the obligations O26, O28, O34 and O37 (spec/41_keystream.md R135, spec/42_permutation.md R145, spec/44_chain_cipher.md R174,
R179). -/

namespace Sys2Proof.Machine

/-! ## The update is a bijection (R130, R135) -/

section xorShift
variable {w k : Nat}

/-- The low `k` bits pass unchanged, and each bit above is mixed with one already known. -/
theorem xor_shiftLeft_injective (hk : 0 < k) : Function.Injective fun x : BitVec w => x ^^^ (x <<< k) := by
  intro x y h
  have hbit (i : Nat) (hi : i < w) : x.getLsbD i = y.getLsbD i := by
    induction i using Nat.strong_induction_on with
    | _ i ih =>
      have hmix := congrArg (BitVec.getLsbD · i) h
      simp only [BitVec.getLsbD_xor, BitVec.getLsbD_shiftLeft, hi, decide_true, Bool.true_and] at hmix
      by_cases hik : i < k
      · simpa [hik] using hmix
      · rw [ih (i - k) (by omega) (by omega)] at hmix
        exact Bool.xor_left_inj.mp hmix
  exact BitVec.eq_of_getLsbD_eq hbit

/-- The high `k` bits pass unchanged, and each bit below is mixed with one already known. -/
theorem xor_ushiftRight_injective (hk : 0 < k) : Function.Injective fun x : BitVec w => x ^^^ (x >>> k) := by
  intro x y h
  have hbit (d i : Nat) (hd : w - i = d) : x.getLsbD i = y.getLsbD i := by
    induction d using Nat.strong_induction_on generalizing i with
    | _ d ih =>
      by_cases hi : i < w
      · have hmix := congrArg (BitVec.getLsbD · i) h
        simp only [BitVec.getLsbD_xor, BitVec.getLsbD_ushiftRight] at hmix
        rw [ih (w - (k + i)) (by omega) (k + i) rfl] at hmix
        exact Bool.xor_left_inj.mp hmix
      · rw [BitVec.getLsbD_of_ge x i (by omega), BitVec.getLsbD_of_ge y i (by omega)]
  exact BitVec.eq_of_getLsbD_eq fun i _ => hbit _ i rfl

end xorShift

theorem xsStep_injective : Function.Injective xsStep :=
  ((xor_shiftLeft_injective (k := 5) (by decide)).comp (xor_ushiftRight_injective (k := 17) (by decide))).comp
    (xor_shiftLeft_injective (k := 13) (by decide))

theorem xsStep_bijective : Function.Bijective xsStep := by
  have hfinite : Finite Word := Finite.of_injective BitVec.toFin fun _ _ => BitVec.eq_of_toFin_eq
  exact Finite.injective_iff_bijective.mp xsStep_injective

/-- Zero comes from zero alone, so a nonzero seed never reaches it. -/
theorem zero_notMem_generate {seed : Word} (hseed : seed ≠ 0#32) (n : Nat) : 0#32 ∉ generate seed n := by
  rw [generate_eq_map]
  intro hmem
  obtain ⟨k, -, hk⟩ := List.mem_map.mp hmem
  have hfixed : xsStep^[k + 1] 0#32 = 0#32 := Function.iterate_fixed xsStep_zero (k + 1)
  exact hseed (xsStep_injective.iterate (k + 1) (hk.trans hfixed.symm))

/-- Settles O26: the update is three injective exclusive ors with shifts, and words are finitely many. -/
theorem xsIsBijection : Obligations.XsIsBijection :=
  ⟨xsStep_bijective, xsStep_zero, fun _ => zero_notMem_generate⟩

/-! ## `build` reads no first draw (R141, R145) -/

/-- The loop ends at index 1. -/
theorem buildFrom_congr {draws draws' : List Word} (h : ∀ k, draws.getD (k + 1) 0#32 = draws'.getD (k + 1) 0#32)
    (i : Nat) (perm : List Nat) : buildFrom draws i perm = buildFrom draws' i perm := by
  induction i generalizing perm with
  | zero => rfl
  | succ i ih => simp only [buildFrom, h, ih]

theorem build_congr {draws draws' : List Word} (h : ∀ k, draws.getD (k + 1) 0#32 = draws'.getD (k + 1) 0#32) (n : Nat) :
    build n draws = build n draws' := buildFrom_congr h _ _

/-- States whose KS agree but for the first word build the same permutation. -/
theorem build_ksRange_congr {s s' : State} (h : ∀ k, k ≠ 0 → readKs s' k = readKs s k) (n : Nat) :
    build n (ksRange s' 0 n) = build n (ksRange s 0 n) := by
  refine build_congr (fun k => ?_) n
  simp only [List.getD_eq_getElem?_getD, getElem?_ksRange, h (0 + (k + 1)) (by omega)]

/-- Settles O28: PBUILD reads KS only through `build`, and its checks read no memory. -/
theorem buildIgnoresFirstDraw : Obligations.BuildIgnoresFirstDraw := by
  refine ⟨fun n x y draws => build_congr (fun _ => by simp) n, fun s s' m hs' h => ?_⟩
  subst hs'
  rcases Nat.lt_or_ge s.nMax s.N with hsize | hsize
  · exact ⟨_, abortsWith_size nofun hsize, abortsWith_size nofun hsize⟩
  · by_cases hks : s.ksValid = true
    · refine ⟨_, exec_pbuild hsize hks, (exec_pbuild (s := { s with ks := m }) hsize hks).trans ?_⟩
      have hbuild := build_ksRange_congr h s.N
      exact congrArg (fun perm => Host.Outcome.next (finish (validateNewP (storeP perm { s with ks := m })))) hbuild
    · have hks' : s.ksValid = false := Bool.eq_false_of_not_eq_true hks
      exact ⟨_, abortsWith_noKs_pbuild hsize hks', abortsWith_noKs_pbuild hsize hks'⟩

/-! ## Lanes (R174) -/

section lanes
variable {lane : Pixel → Byte} (hlane : lane ∈ [Pixel.c0, Pixel.c1, Pixel.c2])
include hlane

theorem lane_mixPixel_congr {prev prev' p q : Pixel} (hprev : lane prev = lane prev') (hpq : lane p = lane q)
    (k : Word) : lane (mixPixel prev p k) = lane (mixPixel prev' q k) := by
  rw [lane_mixPixel prev p k hlane, lane_mixPixel prev' q k hlane, hprev, hpq]

theorem map_lane_chainForward_congr {x y : List Pixel} (hxy : x.map lane = y.map lane) (ks : List Word)
    {prev prev' : Pixel} (hprev : lane prev = lane prev') :
    (chainForward prev x ks).map lane = (chainForward prev' y ks).map lane := by
  induction x generalizing y ks prev prev' with
  | nil =>
    obtain rfl := List.map_eq_nil_iff.mp hxy.symm
    rfl
  | cons p x ih =>
    match y, ks, hxy with
    | _ :: _, [], _ => rfl
    | q :: y, k :: ks, hxy =>
      obtain ⟨hpq, hxy⟩ := List.cons.inj hxy
      have hmix := lane_mixPixel_congr hlane hprev hpq k
      simp only [chainForward, List.map_cons, hmix, ih hxy ks hmix]

theorem map_lane_chainReverse_congr {x y : List Pixel} (hxy : x.map lane = y.map lane) (ks : List Word)
    {prev prev' : Pixel} (hprev : lane prev = lane prev') :
    (chainReverse prev x ks).map lane = (chainReverse prev' y ks).map lane := by
  induction x generalizing y ks prev prev' with
  | nil =>
    obtain rfl := List.map_eq_nil_iff.mp hxy.symm
    rfl
  | cons p x ih =>
    match y, ks, hxy with
    | _ :: _, [], _ => rfl
    | q :: y, k :: ks, hxy =>
      obtain ⟨hpq, hxy⟩ := List.cons.inj hxy
      have hmix := lane_mixPixel_congr hlane hprev hpq k
      simp only [chainReverse, List.map_cons, hmix, ih hxy ks hpq]
end lanes

/-- Settles O34: a lane of a mixed pixel is a function of that lane of its two pixels and of the keystream word. -/
theorem lanesAreIndependent : Obligations.LanesAreIndependent :=
  fun _ hlane _ _ ks _ _ hxy hstart =>
    ⟨map_lane_chainForward_congr hlane hxy ks hstart, map_lane_chainReverse_congr hlane hxy ks hstart⟩

/-! ## The reach of a change through the reverse chain (R176, R179) -/

/-- Result `i` is made of input pixel `i`, the input pixel before it, and keystream word `i`. -/
theorem getElem?_chainReverse_eq (prev : Pixel) (x : List Pixel) (ks : List Word) (i : Nat) :
    (chainReverse prev x ks)[i]? =
      (prev :: x)[i]?.bind fun q => x[i]?.bind fun p => ks[i]?.map fun k => mixPixel q p k := by
  induction x generalizing prev ks i with
  | nil => simp [chainReverse]
  | cons p x ih =>
    match ks, i with
    | [], _ => simp [chainReverse]
    | k :: ks, 0 => rfl
    | k :: ks, i + 1 => exact ih p ks i

/-- Settles O37: result `i` is made of the inputs `i` and `i - 1`, keystream word `i` and, for `i = 0`, the start
value. -/
theorem reverseIsLocal : Obligations.ReverseIsLocal := by
  intro x ks s i j
  simp only [reverse, getElem?_chainReverse_eq]
  refine ⟨fun y hij hij' => ?input, fun w hij => ?word, fun s' hi => ?start⟩
  case input => rw [← List.set_cons_succ, List.getElem?_set_ne (Ne.symm hij'), List.getElem?_set_ne (Ne.symm hij)]
  case word => rw [List.getElem?_set_ne (Ne.symm hij)]
  case start => rw [List.getElem?_cons, List.getElem?_cons, if_neg hi, if_neg hi]

end Sys2Proof.Machine
end

section
/-! The invariant of the machine: it holds after reset, every turn keeps it, and with it no step stops: the obligations
O8, O46, O55 to O59 (spec/10_state.md R49, R51, spec/40_command_execution.md R112, R114, spec/60_exceptions.md R206). -/

namespace Sys2Proof.Machine

/-! ## RST (R50, R51, R230) -/

theorem inv_resetBlock {s : State} (h : CapInRange s) : Inv (resetBlock s) where
  cap := h
  mem := memoriesWf_resetBlock s
  ksOk := nofun
  pOk := nofun
  qOk := nofun
  status := ⟨nofun, nofun⟩

/-- Settles O56: N_MAX is in range, the memories list nothing, no valid bit is set and no command is outstanding. -/
theorem resetStateMeetsInvariant : Obligations.ResetStateMeetsInvariant where
  cap := by
    rw [CapInRange, reset_nMax]
    exact ⟨one_le_configNMax, configNMax_le⟩
  mem := memoriesWf_reset
  ksOk := nofun
  pOk := nofun
  qOk := nofun
  status := ⟨nofun, nofun⟩

/-- Settles O55: nothing is stored after RST, so every element reads as its draw, and the draws are those of the next
number. -/
theorem resetDrawsMemoriesAnew : Obligations.ResetDrawsMemoriesAnew := by
  refine fun s => ⟨resetBlock s, resetStep_eq s, by simp, fun _ => rfl, fun _ => rfl, fun _ => rfl, fun b i => ?_⟩
  cases b <;> rfl

/-! ## Stores and valid bits in either order -/

section commute
variable (s : State)

theorem validateKs_setXs (w : Word) : validateKs (setXs w s) = setXs w (validateKs s) := rfl

theorem validateNewP_storeBuf (b : BufId) (l : List (Nat × Pixel)) :
    validateNewP (storeBuf b l s) = storeBuf b l (validateNewP s) := rfl

theorem validateTables_storeBuf_storeQ (b : BufId) (l : List (Nat × Pixel)) (m : List (Nat × Nat)) :
    validateTables (storeBuf b l (storeQ m s)) = storeBuf b l (validateQ (storeQ m (validateNewP s))) := rfl

end commute

/-! ## What passed checks and valid bits say (R49, R111) -/

section passed
variable {i : Instr} {s : State} {tb : Table} (hc : check i s = none)
include hc

theorem N_le_of_check_eq_none (hi : i ≠ .nop) : s.N ≤ s.nMax :=
  Nat.not_lt.mp fun hN => not_checkFails_of_check_eq_none (c := .size) hc ⟨hi, hN⟩

theorem tableValid_of_indexes (hi : Indexes i tb) : tableValid s tb = true := by
  obtain ⟨-, -, -, htable, -⟩ := (check_eq_none_iff i s).mp hc
  have hvalid : (!tableValid s tb) = false := by obtain ⟨rfl, rfl⟩ | ⟨a, b, rfl | rfl⟩ := hi <;> exact htable
  simpa using hvalid

end passed

theorem readQ_readP_of_invert {s : State} {n : Nat} (hP : (tableRange s .P n).Perm (List.range n))
    (hQ : tableRange s .Q n = invert (tableRange s .P n)) {i : Nat} (hi : i < n) :
    (readQ s (readP s i).toNat).toNat = i := by
  have hget : (tableRange s .P n)[i]? = some (readP s i).toNat := (getElem?_tableRange s .P n i).trans (if_pos hi)
  have hinvert := getElem?_invert hP hget
  rw [← hQ, getElem?_tableRange, if_pos (lt_of_getElem?_of_perm_range hP hget).2] at hinvert
  exact Option.some.inj hinvert

theorem fst_lt_of_mem_numbered {α : Type} {l : List α} {e : Nat × α} (he : e ∈ numbered l) : e.1 < l.length :=
  List.mem_range.mp (numbered_fst l ▸ List.mem_map_of_mem he)

section invariant
variable {s : State} (h : Inv s)
include h

/-! ## Updates outside what the valid bits speak of -/

theorem inv_withSchedule (turns : List Turn) : Inv (withSchedule turns s) :=
  ⟨h.cap, h.mem, h.ksOk, h.pOk, h.qOk, h.status⟩

theorem inv_finish : Inv (finish s) := ⟨h.cap, h.mem, h.ksOk, h.pOk, h.qOk, nofun, h.status.2⟩

theorem inv_finish_abort {c : ErrCode} (hc : c ≠ .clear) : Inv (finish (abort c s)) :=
  ⟨h.cap, h.mem, h.ksOk, h.pOk, h.qOk, nofun, fun _ => hc⟩

theorem inv_accept (w : Word) : Inv (accept w s) :=
  ⟨h.cap, h.mem, h.ksOk, h.pOk, h.qOk, fun _ => ⟨rfl, rfl, rfl⟩, nofun⟩

theorem inv_dropAccess : Inv (dropAccess s) := ⟨h.cap, h.mem, h.ksOk, h.pOk, h.qOk, h.status⟩

theorem inv_answer (v : Word) : Inv (answer v s) := ⟨h.cap, h.mem, h.ksOk, h.pOk, h.qOk, h.status⟩

theorem inv_advance : Inv (advance s) := by
  rw [advance_eq]
  exact ⟨h.cap, h.mem, h.ksOk, h.pOk, h.qOk, h.status⟩

/-- Clearing DONE and ERR keeps them low while busy, and what ERR = 1 says. -/
theorem inv_clearStatus (v : Word) : Inv (clearStatus v s) := by
  obtain ⟨hbusy, herr⟩ := h.status
  refine ⟨h.cap, h.mem, h.ksOk, h.pOk, h.qOk, fun hb => ?busy, fun he => herr (Bool.and_eq_true_iff.mp he).1⟩
  case busy =>
    obtain ⟨hdone, herr, hcode⟩ := hbusy hb
    exact ⟨by simp [hdone], by simp [herr], hcode⟩

theorem inv_storeBuf (b : BufId) {l : List (Nat × Pixel)} (hl : ∀ e ∈ l, e.1 < s.nMax) : Inv (storeBuf b l s) :=
  ⟨h.cap, memoriesWf_storeBuf h.mem b hl, h.ksOk, h.pOk, h.qOk, h.status⟩

theorem inv_storeBuf_numbered (b : BufId) {l : List Pixel} (hl : l.length ≤ s.nMax) :
    Inv (storeBuf b (numbered l) s) :=
  inv_storeBuf h b fun _ he => (fst_lt_of_mem_numbered he).trans_le hl

/-! ## The host's accesses -/

theorem inv_whenIdle {t : State} (ht : Inv t) : Inv (whenIdle s t) := by
  unfold whenIdle
  split
  · exact inv_dropAccess h
  · exact ht

/-- A store into P clears P_VALID and Q_VALID, so that neither has to be true of the new P. -/
theorem inv_storeWindow (v : Word) (hi : s.widx.toNat < windowRange s) : Inv (storeWindow v s) := by
  unfold storeWindow
  split
  case h_1 | h_3 => exact inv_dropAccess h
  case h_2 hwin =>
    have hlt : s.widx.toNat < s.nMax := by simpa [windowRange_eq, hwin] using hi
    exact ⟨h.cap, memoriesWf_writeP h.mem hlt v, h.ksOk, nofun, nofun, h.status⟩
  case h_4 =>
    split
    · next b hbuf =>
      have hlt : s.widx.toNat < s.nMax := windowRange_of_windowBuf hbuf ▸ hi
      exact inv_storeBuf h b (by simpa using hlt)
    · exact inv_dropAccess h

theorem inv_readWdata : Inv (readWdata s) := by
  unfold readWdata
  split
  · exact inv_answer (inv_dropAccess h) _
  · split
    · split
      · exact inv_advance (inv_answer h _)
      · exact inv_advance (inv_answer (inv_dropAccess h) _)
    · exact inv_advance (inv_answer (inv_dropAccess h) _)

theorem inv_writeWdata (v : Word) : Inv (writeWdata v s) := by
  unfold writeWdata
  split
  · exact inv_dropAccess h
  · split
    · next hi => exact inv_advance (inv_storeWindow h v hi)
    · exact inv_advance (inv_dropAccess h)

theorem inv_readReg (r : Reg) : Inv (readReg s r) := by
  cases r
  case wdata => exact inv_readWdata h
  all_goals exact inv_answer h _

/-- A write of SEED clears KS_VALID, one of WIDTH or HEIGHT all three valid bits: what speaks of the register is
withdrawn. -/
theorem inv_writeReg (v : Word) (r : Reg) : Inv (writeReg v s r) := by
  cases r
  case status => exact inv_clearStatus h v
  case wdata => exact inv_writeWdata h v
  case errcode | npix | cap | xs => exact inv_dropAccess h
  case cmd => exact inv_whenIdle h (inv_accept h v)
  case seed => exact inv_whenIdle h ⟨h.cap, h.mem, nofun, h.pOk, h.qOk, h.status⟩
  case width | height => exact inv_whenIdle h ⟨h.cap, h.mem, nofun, nofun, nofun, h.status⟩
  case ctrl => exact ⟨h.cap, h.mem, h.ksOk, h.pOk, h.qOk, h.status⟩
  case start | wsel | widx => exact inv_whenIdle h ⟨h.cap, h.mem, h.ksOk, h.pOk, h.qOk, h.status⟩

theorem inv_hostAccess (op : HostOp) : Inv (hostAccess op s) := by
  obtain ⟨-, ho | ho⟩ | ⟨r, -, ho⟩ | ⟨r, v, -, ho⟩ := hostAccess_cases op s <;> rw [ho]
  · exact inv_dropAccess h
  · exact inv_answer (inv_dropAccess h) _
  · exact inv_readReg h r
  · exact inv_writeReg h v r

/-! ## The commands' stores (R49) -/

theorem inv_setXs (w : Word) : Inv (setXs w s) := ⟨h.cap, h.mem, h.ksOk, h.pOk, h.qOk, h.status⟩

theorem inv_storeKs {ws : List Word} (hN : s.N ≤ s.nMax) (hlen : ws.length ≤ 2 * s.nMax)
    (hks : ksRange (storeKs ws s) 0 (2 * s.N) = generate s.seed (2 * s.N)) : Inv (validateKs (storeKs ws s)) :=
  ⟨h.cap, memoriesWf_storeKs h.mem hlen, fun _ => ⟨hN, hks⟩, h.pOk, h.qOk, h.status⟩

theorem inv_storeKeystream (hN : s.N ≤ s.nMax) : Inv (storeKeystream s) := by
  have hks := ksRange_storeKeystream s
  rw [storeKeystream, validateKs_setXs] at hks ⊢
  exact inv_setXs (inv_storeKs h hN (by simpa [keystream] using hN) hks) _

/-- A new P is a bijection, and Q is not known to be its inverse. -/
theorem inv_storeP {perm : List Nat} (hN : s.N ≤ s.nMax) (hlen : perm.length ≤ s.nMax)
    (hP : IsBijection (storeP perm s) .P) : Inv (validateNewP (storeP perm s)) :=
  ⟨h.cap, memoriesWf_storeP h.mem hlen, h.ksOk, fun _ => ⟨hN, hP⟩, nofun, h.status⟩

theorem inv_storeP_build (hN : s.N ≤ s.nMax) (draws : List Word) : Inv (validateNewP (storeP (build s.N draws) s)) := by
  refine inv_storeP h hN (by simpa using hN) ?_
  rw [IsBijection, storeP_N, tableRange_storeP_build hN]
  exact build_perm_range _ _

theorem inv_validateP (hN : s.N ≤ s.nMax) (hP : IsBijection s .P) : Inv (validateP s) :=
  ⟨h.cap, h.mem, h.ksOk, fun _ => ⟨hN, hP⟩, fun hq => ⟨rfl, (h.qOk hq).2⟩, h.status⟩

theorem inv_storeQ {l : List (Nat × Nat)} (hp : s.pValid = true) (hl : ∀ e ∈ l, e.1 < s.nMax)
    (hinverse : ∀ i < s.N, (readQ (storeQ l s) (readP s i).toNat).toNat = i) : Inv (validateQ (storeQ l s)) :=
  ⟨h.cap, memoriesWf_storeQ h.mem hl, h.ksOk, h.pOk, fun _ => ⟨hp, hinverse⟩, h.status⟩

/-! ## Commands that pass their checks (R111, R114) -/

/-- What a valid bit says of its table: Q, too, is a bijection, being the inverse of one. -/
theorem isBijection_of_tableValid {tb : Table} (hv : tableValid s tb = true) : s.N ≤ s.nMax ∧ IsBijection s tb := by
  cases tb with
  | P => exact h.pOk hv
  | Q =>
    obtain ⟨hN, hP⟩ := h.pOk (h.qOk hv).1
    refine ⟨hN, ?_⟩
    rw [IsBijection, tableRange_q_of_qValid h.qOk hv hP]
    exact invert_perm_range hP

section passed
variable {i : Instr} {tb : Table} (hc : check i s = none)
include hc

theorem inCapacity_of_indexes (hi : Indexes i tb) : inCapacity s (tableRange s tb s.N) = true := by
  obtain ⟨hN, hT⟩ := isBijection_of_tableValid h (tableValid_of_indexes hc hi)
  exact inCapacity_tableRange hN hT

/-- The valid bits keep every command inside the memories. -/
theorem executeOf_eq_executed : executeOf i s = .next (executed i s) := by
  obtain ⟨tb, hi, hu⟩ | ⟨-, hu⟩ := executeOf_cases i s
  · exact hu.trans (whenInCapacity_of_le _ (inCapacity_of_indexes h hc hi))
  · exact hu
end passed

/-- PINV: `i` at index P[i], for each i < N. -/
theorem inv_storeQ_inverseEntries (hN : s.N ≤ s.nMax) (hp : s.pValid = true) (hP : IsBijection s .P) :
    Inv (validateQ (storeQ (inverseEntries s) s)) := by
  refine inv_storeQ h hp (fun e he => ?_) fun i hi => readQ_storeQ_inverseEntries hN hP hi
  have hfst : e.1 ∈ tableRange s .P s.N := map_fst_inverseEntries s ▸ List.mem_map_of_mem he
  exact ((mem_iff_lt_of_perm_range hP).mp hfst).trans_le hN

/-- DEC: the list `invert` gives, from Q[0] on. -/
theorem inv_storeQ_invert {perm : List Nat} (hperm : tableRange s .P s.N = perm) (hN : s.N ≤ s.nMax)
    (hp : s.pValid = true) (hP : IsBijection s .P) : Inv (validateQ (storeQ (numbered (invert perm)) s)) := by
  subst hperm
  have hQ : (invert (tableRange s .P s.N)).Perm (List.range s.N) := invert_perm_range hP
  have hlen : (invert (tableRange s .P s.N)).length = s.N := length_of_perm_range hQ
  have hfit : ∀ v ∈ invert (tableRange s .P s.N), v < 2 ^ 32 := fun v hv =>
    ((mem_iff_lt_of_perm_range hQ).mp hv).trans (N_le_word hN)
  have hread := tableRange_storeQ_numbered s hfit
  rw [hlen] at hread
  exact inv_storeQ h hp (fun _ he => (fst_lt_of_mem_numbered he).trans_le (hlen.trans_le hN)) fun i hi =>
    readQ_readP_of_invert (s := storeQ _ s) hP hread hi

/-- ENC and DEC go through the states that GEN and PBUILD leave. -/
theorem inv_storeKey (hN : s.N ≤ s.nMax) : Inv (validateNewP (storeKey s)) :=
  inv_storeP (inv_storeKeystream h hN) (by simpa using hN) (by simpa [keyPermutation] using hN)
    (isBijection_storeKey hN)

theorem inv_afterEnc (hN : s.N ≤ s.nMax) (a b : BufId) : Inv (afterEnc a b s) := by
  rw [afterEnc, validateNewP_storeBuf]
  exact inv_storeBuf_numbered (inv_storeKey h hN) b (by simpa using hN)

theorem inv_afterDec (hN : s.N ≤ s.nMax) (a b : BufId) : Inv (afterDec a b s) := by
  have hkeyN : (validateNewP (storeKey s)).N = s.N := by simp
  have hperm : tableRange (validateNewP (storeKey s)) .P (validateNewP (storeKey s)).N = keyPermutation s := by
    rw [hkeyN, tableRange_setValid, tableRange_storeKey hN]
  have hP : IsBijection (validateNewP (storeKey s)) .P := by
    rw [IsBijection, hperm, hkeyN]
    exact keyPermutation_perm_range
  have hinverse := inv_storeQ_invert (inv_storeKey h hN) hperm (by simpa using hN) (by simp) hP
  rw [afterDec, validateTables_storeBuf_storeQ]
  exact inv_storeBuf_numbered hinverse b (by simpa using hN)

theorem inv_executed {i : Instr} (hc : check i s = none) : Inv (executed i s) := by
  have hN : i ≠ .nop → s.N ≤ s.nMax := N_le_of_check_eq_none hc
  cases i
  case nop => exact h
  case gen => exact inv_storeKeystream h (hN nofun)
  case pbuild => exact inv_storeP_build h (hN nofun) _
  case pinv =>
    have hp := tableValid_of_indexes hc (.inl ⟨rfl, rfl⟩)
    obtain ⟨hN, hP⟩ := h.pOk hp
    exact inv_storeQ_inverseEntries h hN hp hP
  case pchk =>
    obtain ⟨-, -, -, -, hperm⟩ := (check_eq_none_iff _ s).mp hc
    exact inv_validateP h (hN nofun) ((holdsPerm_iff s).mp (by simpa [failsPerm] using hperm))
  case scat a b tb =>
    have hcap := (inCapacity_iff s _).mp (inCapacity_of_indexes h hc (.inr ⟨a, b, .inl rfl⟩))
    exact inv_storeBuf h b fun e he => hcap e.1 (List.of_mem_zip he).1
  case gath a b tb | cfwd a b | crev a b => exact inv_storeBuf_numbered h b (by simpa using hN nofun)
  case enc a b => exact inv_afterEnc h (hN nofun) a b
  case dec a b => exact inv_afterDec h (hN nofun) a b

theorem inv_exec {i : Instr} {t : State} (ht : exec i s = .next t) : Inv t := by
  obtain ⟨c, hc, rfl⟩ | ⟨hc, u, hu, rfl⟩ := exec_cases ht
  · exact inv_finish_abort h fun hclear => check_ne_clear i s (hclear ▸ hc)
  · obtain rfl := eq_executed_of_executeOf hu
    exact inv_finish (inv_executed h hc)

theorem exists_exec (i : Instr) : ∃ t, exec i s = .next t := by
  cases hc : check i s with
  | some c => exact ⟨_, exec_of_abort hc⟩
  | none => exact ⟨_, exec_of_pass hc (executeOf_eq_executed h hc)⟩

/-! ## Steps (R77, R112, R230) -/

theorem inv_step {t : State} (ht : step s = .next t) : Inv t := by
  have hturn : Inv (withSchedule s.schedule.tail s) := inv_withSchedule h _
  obtain ⟨-, -, rfl⟩ | ⟨i, -, he⟩ | ⟨-, -, -, rfl⟩ | ⟨op, -, rfl⟩ | ⟨-, rfl⟩ := step_cases ht
  · exact hturn
  · exact inv_exec hturn he
  · exact inv_finish_abort hturn nofun
  · exact inv_hostAccess hturn op
  · exact inv_resetBlock hturn.cap

/-- The block's turn completes the outstanding command, whatever its word is. -/
theorem exists_blockTurn_of_busy (hbusy : s.busy = true) :
    ∃ t, blockTurn s = .next t ∧ t.busy = false ∧ t.done = true := by
  cases hd : decode s.cmd with
  | ok i =>
    obtain ⟨t, ht⟩ := exists_exec h i
    obtain ⟨htbusy, hdone, -⟩ := exec_finishes ht
    exact ⟨t, (blockTurn_of_decode hbusy hd).trans ht, htbusy, hdone⟩
  | error e =>
    have hillegal := completion_of_illegal fun i => decode_ne_ok_of_error hd i
    exact ⟨_, (if_pos hbusy).trans hillegal, rfl, rfl⟩

theorem exists_blockTurn : ∃ t, blockTurn s = .next t := by
  by_cases hbusy : s.busy = true
  · obtain ⟨t, ht, -⟩ := exists_blockTurn_of_busy h hbusy
    exact ⟨t, ht⟩
  · exact ⟨s, if_neg hbusy⟩

theorem exists_step : ∃ t, step s = .next t := by
  match hs : s.schedule with
  | [] => rw [step_of_nil hs]; exact exists_blockTurn h
  | .host op :: rest => exact ⟨_, step_of_host hs⟩
  | .block :: rest => rw [step_of_block hs]; exact exists_blockTurn (inv_withSchedule h rest)
  | .reset :: rest => exact ⟨_, step_of_reset hs⟩

end invariant

/-- Settles O57: the turn is taken off the schedule, and then block, host or RST keeps the invariant. -/
theorem stepKeepsInvariant : Obligations.StepKeepsInvariant := fun _ _ h => inv_step h

/-- Settles O58: only `execute` can stop a step, and with the invariant the valid bits keep it inside the memories. -/
theorem invariantStateSteps : Obligations.InvariantStateSteps := fun _ h => exists_step h

/-- Settles O8: with the invariant the command executes, and `execute` leaves ERR and CODE as the acceptance did. -/
theorem passedChecksSucceed : Obligations.PassedChecksSucceed := by
  intro i s h hbusy hpass
  have hc : check i s = none := check_eq_none_iff_forall.mpr hpass
  have hu := executeOf_eq_executed h hc
  obtain ⟨-, hserr, hscode⟩ := h.status.1 hbusy
  have herr : (executed i s).err = false := by rw [executeOf_frame hu]; exact hserr
  have hcode : (executed i s).code = .clear := by rw [executeOf_frame hu]; exact hscode
  refine ⟨_, exec_of_pass hc hu, herr, hcode, ?status⟩
  case status => simp [statusWord_mod_eight, herr]

/-! ## Completion and the W1C write (R23, R206) -/

theorem step_of_completes {s : State} {i : Instr} (h : Completes s i) :
    step s = exec i (withSchedule s.schedule.tail s) := by
  obtain ⟨hbusy, hd, hs | ⟨rest, hs⟩⟩ := h
  · rw [step_of_nil hs, withSchedule_tail_of_nil hs, blockTurn_of_decode hbusy hd]
  · rw [step_of_block hs, hs]
    exact blockTurn_of_decode (s := withSchedule rest s) hbusy hd

theorem clearStatus_eq (v : Word) (s : State) :
    clearStatus v s = { s with
      done := if v.getLsbD 1 then false else s.done
      err := if v.getLsbD 2 then false else s.err
      accErr := if v.getLsbD 3 then false else s.accErr } := by
  have masked (b w : Bool) : (b && !w) = if w then false else b := by cases w <;> simp
  simp only [clearStatus, masked]

/-- Settles O46: neither write waits for BUSY = 0; a completion ends with DONE = 1, which the W1C write then clears. -/
theorem controlAndStatusWrites : Obligations.ControlAndStatusWrites := by
  refine ⟨fun s v => ⟨hostWrite_eq .ctrl v s, ?status⟩, fun s v i h hcompletes hv => ?order⟩
  case status => exact (hostWrite_eq .status v s).trans (congrArg Host.Outcome.next (clearStatus_eq v s))
  case order =>
    obtain ⟨t, ht⟩ := exists_exec (inv_withSchedule h s.schedule.tail) i
    obtain ⟨-, hdone, -⟩ := exec_finishes ht
    exact ⟨t, _, (step_of_completes hcompletes).trans ht, hdone, hostWrite_eq .status v t, by simp [writeReg, hv]⟩

/-! ## An outstanding command ends (R112) -/

theorem run_succ {M : Host.Core} {s t : M.State} (h : M.step s = .next t) (k : Nat) : M.run (k + 1) s = M.run k t := by
  rw [Host.Core.run, h]

theorem run_succ_of_step {s t : State} (h : step s = .next t) (k : Nat) :
    Host.Core.run Sys2Proof.core (k + 1) s = Host.Core.run Sys2Proof.core k t := run_succ (M := Sys2Proof.core) h k

theorem busy_hostAccess_of_busy {s : State} (hbusy : s.busy = true) (op : HostOp) :
    (hostAccess op s).busy = true ∧ (hostAccess op s).schedule = s.schedule := by
  obtain ⟨ie, done, err, accErr, rdata, hframe⟩ := hostAccess_frame_of_busy hbusy op
  rw [hframe]
  exact ⟨hbusy, rfl⟩

/-- The host's turns leave the command outstanding, each taking one off the schedule; the block's completes it and RST
cancels it. -/
theorem exists_run_of_busy {s : State} (h : Inv s) (hbusy : s.busy = true) :
    ∃ k ≤ s.schedule.length + 1, ∃ t, Host.Core.run Sys2Proof.core k s = .next t ∧ t.busy = false ∧
      ((∀ x ∈ s.schedule, x ≠ Turn.reset) → t.done = true) := by
  generalize hs : s.schedule = turns
  induction turns generalizing s with
  | nil =>
    obtain ⟨t, ht, htbusy, hdone⟩ := exists_blockTurn_of_busy h hbusy
    exact ⟨1, by simp, t, run_succ_of_step ((step_of_nil hs).trans ht) 0, htbusy, fun _ => hdone⟩
  | cons turn rest ih =>
    have hturn : Inv (withSchedule rest s) := inv_withSchedule h rest
    cases turn with
    | host op =>
      obtain ⟨hbusy', hrest⟩ := busy_hostAccess_of_busy (s := withSchedule rest s) hbusy op
      obtain ⟨k, hk, t, ht, htbusy, hdone⟩ := ih (inv_hostAccess hturn op) hbusy' hrest
      refine ⟨k + 1, by simpa using hk, t, (run_succ_of_step (step_of_host hs) k).trans ht, htbusy, fun hno => hdone ?_⟩
      exact fun x hx => hno x (List.mem_cons_of_mem _ hx)
    | block =>
      obtain ⟨t, ht, htbusy, hdone⟩ := exists_blockTurn_of_busy hturn hbusy
      exact ⟨1, by simp, t, run_succ_of_step ((step_of_block hs).trans ht) 0, htbusy, fun _ => hdone⟩
    | reset =>
      exact ⟨1, by simp, _, run_succ_of_step (step_of_reset hs) 0, rfl, fun hno => absurd rfl (hno _ (by simp))⟩

/-- Settles O59: the schedule is finite, and every turn on it but the host's ends the command. -/
theorem outstandingCommandCompletes : Obligations.OutstandingCommandCompletes := fun _ => exists_run_of_busy

end Sys2Proof.Machine
end

section
/-! Who stores into XS, KS, P, Q and the buffers: the obligation O60 (spec/10_state.md R33, R42 to R45,
spec/20_memory.md R66, R67). -/

namespace Sys2Proof.Machine

/-! ## States with the same memories -/

/-- XS, the memories and the draws of `t` are those of `s`. -/
structure SameStores (s t : State) : Prop where
  xs : t.xs = s.xs
  ks : t.ks = s.ks
  p : t.p = s.p
  q : t.q = s.q
  buf : t.buf = s.buf
  epoch : t.epoch = s.epoch

namespace SameStores

variable {s t u : State} (h : SameStores s t)
include h

omit h in
theorem refl (s : State) : SameStores s s := ⟨rfl, rfl, rfl, rfl, rfl, rfl⟩

theorem trans (h' : SameStores t u) : SameStores s u :=
  ⟨h'.xs.trans h.xs, h'.ks.trans h.ks, h'.p.trans h.p, h'.q.trans h.q, h'.buf.trans h.buf, h'.epoch.trans h.epoch⟩

theorem readKs (k : Nat) : readKs t k = readKs s k := by simp only [Machine.readKs, h.ks, h.epoch]
theorem readP (k : Nat) : readP t k = readP s k := by simp only [Machine.readP, h.p, h.epoch]
theorem readQ (k : Nat) : readQ t k = readQ s k := by simp only [Machine.readQ, h.q, h.epoch]
theorem readBuf (b : BufId) (k : Nat) : readBuf t b k = readBuf s b k := by
  simp only [Machine.readBuf, h.buf, h.epoch]

end SameStores

/-! ## The commands (R132, R143, R152, R162, R165, R172, R177, R190, R192) -/

/-- The commands that store the keystream. -/
abbrev WritesKs (i : Instr) : Prop := i = .gen ∨ ∃ a b, i = .enc a b ∨ i = .dec a b

/-- The commands that store a permutation into P. -/
abbrev WritesP (i : Instr) : Prop := i = .pbuild ∨ ∃ a b, i = .enc a b ∨ i = .dec a b

/-- The commands that store an inverse permutation into Q. -/
abbrev WritesQ (i : Instr) : Prop := i = .pinv ∨ ∃ a b, i = .dec a b

/-- The commands that have the buffer as DST. -/
abbrev WritesBuf (i : Instr) (b : BufId) : Prop :=
  ∃ a tb, i ∈ [.scat a b tb, .gath a b tb, .cfwd a b, .crev a b, .enc a b, .dec a b]

/-- A store of pixels reaches the listed elements of its own buffer and nothing else. -/
theorem eq_and_mem_of_readBuf_storeBuf_ne {s : State} {b c : BufId} {l : List (Nat × Pixel)} {k : Nat}
    (hne : readBuf (storeBuf b l s) c k ≠ readBuf s c k) : c = b ∧ k ∈ l.map Prod.fst := by
  obtain rfl : c = b := not_imp_comm.mp (fun hcb => readBuf_storeBuf_ne s l hcb k) hne
  exact ⟨rfl, not_imp_comm.mp (fun hk => readBuf_storeBuf_other s c l hk) hne⟩

theorem eq_and_lt_of_readBuf_storeBuf_numbered_ne {s : State} {b c : BufId} {l : List Pixel} {k : Nat}
    (hne : readBuf (storeBuf b (numbered l) s) c k ≠ readBuf s c k) : c = b ∧ k < l.length := by
  obtain ⟨hcb, hk⟩ := eq_and_mem_of_readBuf_storeBuf_ne hne
  exact ⟨hcb, List.mem_range.mp (numbered_fst l ▸ hk)⟩

section executed
variable {i : Instr} {s : State} {k : Nat}

theorem writesKs_of_xs_ne (hne : (executed i s).xs ≠ s.xs) : WritesKs i := by
  cases i
  case gen | enc | dec => simp [WritesKs]
  all_goals exact absurd rfl hne

theorem writesKs_of_readKs_ne (hne : readKs (executed i s) k ≠ readKs s k) : k < 2 * s.N ∧ WritesKs i := by
  cases i
  case gen | enc | dec =>
    refine ⟨Nat.not_le.mp fun hge => hne ?_, by simp [WritesKs]⟩
    simp [executed, readKs_storeKeystream_of_ge s hge]
  all_goals exact absurd rfl hne

theorem writesP_of_readP_ne (hne : readP (executed i s) k ≠ readP s k) : k < s.N ∧ WritesP i := by
  cases i
  case pbuild =>
    refine ⟨Nat.not_le.mp fun hge => hne ?_, by simp [WritesP]⟩
    rw [executed, readP_setValid, readP_storeP, if_neg (by simpa using hge)]
  case enc | dec =>
    refine ⟨Nat.not_le.mp fun hge => hne ?_, by simp [WritesP]⟩
    simp [executed, readP_storeKey_of_ge hge]
  all_goals exact absurd (by simp [executed]) hne

/-- PINV stores at the words of P, which are below N because P is a bijection. -/
theorem writesQ_of_readQ_ne (h : Inv s) (hc : check i s = none) (hne : readQ (executed i s) k ≠ readQ s k) :
    k < s.N ∧ WritesQ i := by
  cases i
  case pinv =>
    obtain ⟨-, hP⟩ := isBijection_of_tableValid h (tableValid_of_indexes hc (.inl ⟨rfl, rfl⟩))
    exact ⟨Nat.not_le.mp fun hge => hne (readQ_storeQ_inverseEntries_of_ge hP hge), by simp [WritesQ]⟩
  case dec a b => exact ⟨Nat.not_le.mp fun hge => hne (readQ_afterDec_of_ge a b hge), by simp [WritesQ]⟩
  all_goals exact absurd (by simp [executed]) hne

/-- SCAT stores at the words of its table, which are below N because the valid bit makes the table a bijection; the
others store numbered lists of N pixels. -/
theorem writesBuf_of_readBuf_ne (h : Inv s) (hc : check i s = none) {b : BufId}
    (hne : readBuf (executed i s) b k ≠ readBuf s b k) : k < s.N ∧ WritesBuf i b := by
  cases i
  case scat a c tb =>
    obtain ⟨rfl, hk⟩ := eq_and_mem_of_readBuf_storeBuf_ne hne
    obtain ⟨-, hT⟩ := isBijection_of_tableValid h (tableValid_of_indexes hc (.inr ⟨a, b, .inl rfl⟩))
    rw [map_fst_scatteredEntries] at hk
    exact ⟨(mem_iff_lt_of_perm_range hT).mp hk, a, tb, by simp⟩
  case gath a c tb =>
    obtain ⟨rfl, hk⟩ := eq_and_lt_of_readBuf_storeBuf_numbered_ne hne
    exact ⟨by simpa using hk, a, tb, by simp⟩
  case cfwd a c | crev a c =>
    obtain ⟨rfl, hk⟩ := eq_and_lt_of_readBuf_storeBuf_numbered_ne hne
    exact ⟨by simpa using hk, a, .P, by simp⟩
  case enc a c =>
    obtain ⟨rfl, hk⟩ := eq_and_lt_of_readBuf_storeBuf_numbered_ne (s := storeKey s) (by simpa [executed] using hne)
    exact ⟨by simpa using hk, a, .P, by simp⟩
  case dec a c =>
    obtain ⟨rfl, hk⟩ := eq_and_lt_of_readBuf_storeBuf_numbered_ne (s := storeQ _ (storeKey s))
      (by simpa [executed] using hne)
    exact ⟨by simpa using hk, a, .P, by simp⟩
  all_goals exact absurd (by simp [executed]) hne
end executed

/-! ## The host's accesses (R66, R67) -/

/-- The windows on the four buffers (R38). -/
abbrev bufferWindows : List (BitVec 3 × BufId) := [(0#3, .b0), (1#3, .b1), (2#3, .b2), (3#3, .b3)]

theorem window_cases : ∀ win : BitVec 3,
    (win = 4#3 ∨ win = 6#3 ∨ win = 7#3) ∨ win = 5#3 ∨ ∃ e ∈ bufferWindows, win = e.1 := by decide

/-- What a WDATA write stores: one element of P or of a buffer. -/
inductive WindowStore (v : Word) (s : State) : State → Prop where
  | p (hwin : s.win = 5#3) : WindowStore v s { s with p := s.p.write s.widx.toNat v }
  | buf (b : BufId) (hwin : (s.win, b) ∈ bufferWindows) :
      WindowStore v s (storeBuf b [(s.widx.toNat, wordToPixel v)] s)

namespace WindowStore

variable {v : Word} {s u : State} {k : Nat} (hu : WindowStore v s u)
include hu

theorem xs_eq : u.xs = s.xs := by cases hu <;> rfl
theorem readKs_eq (k : Nat) : readKs u k = readKs s k := by cases hu <;> rfl
theorem readQ_eq (k : Nat) : readQ u k = readQ s k := by cases hu <;> rfl

theorem of_readP_ne (hne : readP u k ≠ readP s k) : s.win = 5#3 ∧ k = s.widx.toNat := by
  cases hu with
  | p hwin => exact ⟨hwin, not_imp_comm.mp (fun hk => by simp [readP, Memory.stored_write_other _ _ hk]) hne⟩
  | buf b hwin => exact absurd rfl hne

theorem of_readBuf_ne {b : BufId} (hne : readBuf u b k ≠ readBuf s b k) :
    (s.win, b) ∈ bufferWindows ∧ k = s.widx.toNat := by
  cases hu with
  | p hwin => exact absurd rfl hne
  | buf c hwin =>
    obtain ⟨rfl, hk⟩ := eq_and_mem_of_readBuf_storeBuf_ne hne
    exact ⟨hwin, by simpa using hk⟩

end WindowStore

section host
variable {s : State}

theorem sameStores_dropAccess : SameStores s (dropAccess s) := ⟨rfl, rfl, rfl, rfl, rfl, rfl⟩

theorem sameStores_answer (v : Word) : SameStores s (answer v s) := ⟨rfl, rfl, rfl, rfl, rfl, rfl⟩

theorem sameStores_advance : SameStores s (advance s) := by
  rw [advance_eq]
  exact ⟨rfl, rfl, rfl, rfl, rfl, rfl⟩

theorem sameStores_readWdata : SameStores s (readWdata s) := by
  unfold readWdata
  split
  · exact sameStores_dropAccess.trans (sameStores_answer _)
  · split
    · split
      · exact (sameStores_answer _).trans sameStores_advance
      · exact (sameStores_dropAccess.trans (sameStores_answer _)).trans sameStores_advance
    · exact (sameStores_dropAccess.trans (sameStores_answer _)).trans sameStores_advance

theorem sameStores_readReg (r : Reg) : SameStores s (readReg s r) := by
  cases r
  case wdata => exact sameStores_readWdata
  all_goals exact sameStores_answer _

theorem sameStores_whenIdle {t : State} (ht : SameStores s t) : SameStores s (whenIdle s t) := by
  unfold whenIdle
  split
  · exact sameStores_dropAccess
  · exact ht

theorem sameStores_writeReg (v : Word) {r : Reg} (hr : r ≠ .wdata) : SameStores s (writeReg v s r) := by
  cases r
  case wdata => exact absurd rfl hr
  case errcode | npix | cap | xs => exact sameStores_dropAccess
  case ctrl | status => exact ⟨rfl, rfl, rfl, rfl, rfl, rfl⟩
  all_goals exact sameStores_whenIdle ⟨rfl, rfl, rfl, rfl, rfl, rfl⟩

theorem writeWdata_stores (v : Word) (s : State) :
    SameStores s (writeWdata v s) ∨ s.busy = false ∧ ∃ u, WindowStore v s u ∧ SameStores u (writeWdata v s) := by
  by_cases hbusy : s.busy = true
  · rw [writeWdata_of_busy v hbusy]
    exact .inl sameStores_dropAccess
  have hidle : s.busy = false := Bool.eq_false_of_not_eq_true hbusy
  rcases Nat.lt_or_ge s.widx.toNat s.nMax with hi | hi
  · obtain hro | hwin | ⟨e, he, hwin⟩ := window_cases s.win
    · rw [writeWdata_of_readOnly v hidle hro]
      exact .inl (sameStores_dropAccess.trans sameStores_advance)
    · rw [writeWdata_of_p v hidle hwin hi]
      exact .inr ⟨hidle, _, .p hwin, rfl, rfl, rfl, rfl, rfl, rfl⟩
    · rw [writeWdata_of_buffer v hidle (hwin ▸ windowBuf_eq_some e he) hi]
      exact .inr ⟨hidle, _, .buf e.2 (hwin ▸ he), rfl, rfl, rfl, rfl, rfl, rfl⟩
  · rw [writeWdata_of_dropped v hidle (.inr (.inr (.inr hi)))]
    exact .inl (sameStores_dropAccess.trans sameStores_advance)

/-- The host stores into a memory only through WDATA, while idle. -/
theorem hostAccess_stores (op : HostOp) (s : State) :
    SameStores s (hostAccess op s) ∨
    s.busy = false ∧ ∃ v, op = .write .word 0x034#12 v ∧ ∃ u, WindowStore v s u ∧ SameStores u (hostAccess op s) := by
  obtain ⟨-, h | h⟩ | ⟨r, -, h⟩ | ⟨r, v, rfl, h⟩ := hostAccess_cases op s <;> rw [h]
  · exact .inl sameStores_dropAccess
  · exact .inl (sameStores_dropAccess.trans (sameStores_answer _))
  · exact .inl (sameStores_readReg r)
  · by_cases hr : r = .wdata
    · subst hr
      exact (writeWdata_stores v s).imp id fun ⟨hidle, hu⟩ => ⟨hidle, v, rfl, hu⟩
    · exact .inl (sameStores_writeReg v hr)
end host

/-! ## One step -/

/-- What a step that is no reset leaves in XS and the memories: what was there, what a command that passed its checks
stores, or what the host writes through a window. -/
theorem step_stores {s t : State} (ht : step s = .next t) (hreset : ∀ rest, s.schedule ≠ .reset :: rest) :
    SameStores s t ∨
    (∃ i, Completes s i ∧ check i (withSchedule s.schedule.tail s) = none ∧
      SameStores (executed i (withSchedule s.schedule.tail s)) t) ∨
    (s.busy = false ∧ ∃ v rest, s.schedule = .host (.write .word 0x034#12 v) :: rest ∧
      ∃ u, WindowStore v (withSchedule s.schedule.tail s) u ∧ SameStores u t) := by
  obtain ⟨-, -, rfl⟩ | ⟨i, hcompletes, he⟩ | ⟨-, -, -, rfl⟩ | ⟨op, hs, rfl⟩ | ⟨hs, -⟩ := step_cases ht
  · exact .inl ⟨rfl, rfl, rfl, rfl, rfl, rfl⟩
  · obtain ⟨c, -, rfl⟩ | ⟨hc, u, hu, rfl⟩ := exec_cases he
    · exact .inl ⟨rfl, rfl, rfl, rfl, rfl, rfl⟩
    · obtain rfl := eq_executed_of_executeOf hu
      exact .inr (.inl ⟨i, hcompletes, hc, rfl, rfl, rfl, rfl, rfl, rfl⟩)
  · exact .inl ⟨rfl, rfl, rfl, rfl, rfl, rfl⟩
  · obtain hsame | ⟨hidle, v, rfl, hu⟩ := hostAccess_stores op (withSchedule s.schedule.tail s)
    · exact .inl ⟨hsame.xs, hsame.ks, hsame.p, hsame.q, hsame.buf, hsame.epoch⟩
    · exact .inr (.inr ⟨hidle, v, _, hs, hu⟩)
  · exact absurd hs (hreset _)

/-- Settles O60: a step that changes a memory is the completion of a command that stores there or a window write. -/
theorem onlyNamedWritersStore : Obligations.OnlyNamedWritersStore := by
  intro s t h ht hreset
  have hturn : Inv (withSchedule s.schedule.tail s) := inv_withSchedule h _
  obtain hsame | ⟨i, hcompletes, hc, hsame⟩ | ⟨hidle, v, rest, hs, u, hu, hsame⟩ := step_stores ht hreset <;>
    simp only [hsame.xs, hsame.readKs, hsame.readP, hsame.readQ, hsame.readBuf]
  case inl => exact ⟨absurd rfl, fun _ => absurd rfl, fun _ => absurd rfl, fun _ => absurd rfl, fun _ _ => absurd rfl⟩
  case inr.inl =>
    refine ⟨fun hne => ⟨i, hcompletes, writesKs_of_xs_ne hne⟩, fun k hne => ?ks, fun k hne => .inl ?p, fun k hne => ?q,
      fun b k hne => .inl ?buf⟩
    case ks =>
      obtain ⟨hk, hi⟩ := writesKs_of_readKs_ne hne
      exact ⟨hk, i, hcompletes, hi⟩
    case p =>
      obtain ⟨hk, hi⟩ := writesP_of_readP_ne hne
      exact ⟨hk, i, hcompletes, hi⟩
    case q =>
      obtain ⟨hk, hi⟩ := writesQ_of_readQ_ne hturn hc hne
      exact ⟨hk, i, hcompletes, hi⟩
    case buf =>
      obtain ⟨hk, a, tb, hi⟩ := writesBuf_of_readBuf_ne hturn hc hne
      exact ⟨hk, i, a, tb, hcompletes, hi⟩
  case inr.inr =>
    refine ⟨absurd hu.xs_eq, fun k => absurd (hu.readKs_eq k), fun k hne => .inr ?p, fun k => absurd (hu.readQ_eq k),
      fun b k hne => .inr ?buf⟩
    case p =>
      obtain ⟨hwin, hk⟩ := hu.of_readP_ne hne
      exact ⟨hidle, hwin, hk, v, rest, hs⟩
    case buf =>
      obtain ⟨hwin, hk⟩ := hu.of_readBuf_ne hne
      exact ⟨hidle, hwin, hk, v, rest, hs⟩

end Sys2Proof.Machine
end
